-- ==== Sys2Proof/Word.lean ====
section
/-! DEFINITION. The word types of the block (spec/00_scope.md R8, R10): bytes, 64-bit counters, 62-bit stream ids,
the 128-bit command descriptor. Every value of the block is unsigned. -/

namespace Sys2Proof

/-- One byte of a wire format or of the decode scratch; a baton value is a byte (R8: 0..255, wrapping). -/
abbrev Byte := BitVec 8

/-- A 64-bit unsigned counter (R8, D41). It never wraps: passing 2^64 - 1 is a model fault (R270). -/
abbrev Counter := BitVec 64

/-- A stream id: a 62-bit unsigned value (R8, R62). The sentinel `NONE` lies outside it (R82). -/
abbrev StreamId := BitVec 62

/-- A 14-bit padding length or padding counter (R38, R39). -/
abbrev PadLen := BitVec 14

/-- A command descriptor `W` (R80). -/
abbrev Descriptor := BitVec 128

end Sys2Proof
end

