-- ==== Sys2Proof/Config.lean ====
section
/-! DEFINITION. The parameters of spec/00_scope.md R9: the constants the source fixes, and the configuration inputs of
R44. An instance's configuration inputs are one plain record. The inputs that R9 leaves OPEN come, in the record of the
instance after block reset, from an opaque constant, so that no proof can see a value of them; `BIDI_DISPATCH` has there
the default that R9 gives it. -/

namespace Sys2Proof

/-- The five close codes (R224). -/
inductive CloseCode where
  | success
  | insufficientStreamCredit
  | malformed
  | allStreamsReset
  | idleTimeout
  deriving DecidableEq, Repr, Inhabited

/-- The reading of the dispatch routes for bidirectional inbound streams (R202, D28). -/
inductive BidiDispatch where
  /-- The source's text, the default of R9. -/
  | asDocumented
  /-- The alternative reading of R202. -/
  | swapped
  deriving DecidableEq, Repr, Inhabited

/-- `REASON(code)` for each close code (R9, D7): byte strings the spec leaves OPEN. -/
structure Reasons where
  success : List Byte
  insufficientStreamCredit : List Byte
  malformed : List Byte
  allStreamsReset : List Byte
  idleTimeout : List Byte
  deriving DecidableEq, Repr, Inhabited

/-- The configuration inputs of one instance (R44): fixed for its life, written by no command. -/
structure Params where
  /-- `CFG_TURNS_REQUIRED` (D35). -/
  turnsRequired : Counter
  /-- `TAG_UNI`, 62 bits (D20). -/
  tagUni : BitVec 62
  /-- `TAG_BIDI`, 62 bits (D20). -/
  tagBidi : BitVec 62
  /-- `SEND_PRIORITY` (D30): no width is given and no rule depends on it. -/
  sendPriority : Nat
  /-- `REASON(code)` (D7). -/
  reasons : Reasons
  /-- `BIDI_DISPATCH` (D28), with the default of R9. -/
  bidiDispatch : BidiDispatch := .asDocumented
  deriving DecidableEq, Repr, Inhabited

namespace Config

/-- FREE VALUE. The configuration inputs that R9 leaves OPEN; its `bidiDispatch` is not used. -/
opaque openParams : Params

/-- The default of `BIDI_DISPATCH` (R9, D28). -/
def bidiDispatchDefault : BidiDispatch := .asDocumented

/-- The configuration inputs of the instance that block reset leaves (R9, R44): the OPEN ones are free, and
`BIDI_DISPATCH` is at its default. -/
def params : Params := { openParams with bidiDispatch := bidiDispatchDefault }

/-- `SCRATCH_BYTES` (R9). -/
def scratchBytes : Nat := 2
/-- `PAD_1B_MAX` (R9). -/
def pad1bMax : Nat := 0x3F
/-- `PAD_2B_MAX` (R9). -/
def pad2bMax : Nat := 0x3FFF
/-- `CORRUPT_ADD` (R9). -/
def corruptAdd : Byte := 31
/-- `CORRUPT_MIN_TURN` (R9). -/
def corruptMinTurn : Nat := 4
/-- `CORRUPT_TRIGGER` (R9, R29). -/
def corruptTrigger : Counter := 257
/-- `DGRAM_MODULUS` (R9). -/
def dgramModulus : Nat := 7
/-- `SEED_MIN` (R9). -/
def seedMin : Nat := 1
/-- `SEED_MAX` (R9). -/
def seedMax : Nat := 128
/-- `DGRAM_MAX` (R9). -/
def dgramMax : Nat := 1536

end Config

end Sys2Proof
end

