-- ==== Sys2Proof/Syntax.lean ====
section
/-! DEFINITION. The nine commands of the block (spec/30_encoding.md R84), one constructor per row of
spec/opcode_table.json. A command that carries a payload (R83) holds it as an operand. -/

namespace Sys2Proof

/-- A command the host delivers to the block (R3, R84). -/
inductive Instr where
  /-- ACCEPT, opcode 0x01 (R170): create a responder session on the initial (control) stream `sid` with baton `seed`. -/
  | accept (sid : StreamId) (bidi isLocal : Bool) (seed : Byte)
  /-- CONNECT, opcode 0x02 (R172): create an initiator session on the control stream `sid`. -/
  | connect (sid : StreamId) (bidi isLocal : Bool)
  /-- DEREGISTER, opcode 0x03 (R174). -/
  | deregister
  /-- DELIVER_BYTES, opcode 0x10 (R120): bytes of stream `sid`, `fin` marking its end; `bidi` and `isLocal` are the
  attributes of a stream the block does not know yet. -/
  | deliverBytes (sid : StreamId) (fin bidi isLocal : Bool) (payload : List Byte)
  /-- REQUEST_SEND, opcode 0x11 (R150): the transport offers `maxLen` bytes of send space on stream `sid`. -/
  | requestSend (sid : StreamId) (maxLen : BitVec 16)
  /-- DELIVER_DATAGRAM, opcode 0x20 (R244). -/
  | deliverDatagram (payload : List Byte)
  /-- REQUEST_DATAGRAM, opcode 0x21 (R242): an offer of `maxLen` bytes with the padding draw `pad`. -/
  | requestDatagram (maxLen pad : BitVec 16)
  /-- NOTIFY_RESET, opcode 0x30 (R222). -/
  | notifyReset (sid : StreamId)
  /-- IDLE_TIMEOUT, opcode 0x31 (R223). -/
  | idleTimeout
  deriving DecidableEq, Repr, Inhabited

end Sys2Proof
end

