-- ==== Sys2Proof/WellFormed.lean ====
section
/-! DEFINITION. Which commands have a legal descriptor (spec/30_encoding.md R80 to R86). The type of a command already
holds every field to its width, so only two conditions are left: the seed's range and the payload's length. -/

namespace Sys2Proof

/-- ACCEPT's seed is in 1..128 (R81, R85, D37). -/
def seedLegal (seed : Byte) : Bool :=
  decide (Config.seedMin ≤ seed.toNat) && decide (seed.toNat ≤ Config.seedMax)

/-- A payload's length fits the 16-bit LEN field (R65, R80). -/
def payloadLegal (payload : List Byte) : Bool :=
  decide (payload.length < 2 ^ 16)

/-- The command has a legal descriptor: not illegal by R85, and with a payload that LEN can announce (R83). -/
def Instr.wf : Instr → Bool
  | .accept _ _ _ seed => seedLegal seed
  | .connect _ _ _ => true
  | .deregister => true
  | .deliverBytes _ _ _ _ payload => payloadLegal payload
  | .requestSend _ _ => true
  | .deliverDatagram payload => payloadLegal payload
  | .requestDatagram _ _ => true
  | .notifyReset _ => true
  | .idleTimeout => true

/-- `Instr.wf` as a proposition. -/
abbrev Instr.WellFormed (i : Instr) : Prop := i.wf = true

end Sys2Proof
end

