-- ==== Sys2Proof/Decode.lean ====
section
/-! DEFINITION. Decoding a command from its 128-bit descriptor and payload, and encoding it (spec/30_encoding.md R80 to
R86). Decoding is total and rejects by name; every rejection but `payloadLength` is an illegal descriptor (R85). -/

namespace Sys2Proof

/-- Why the bits delivered are no command of the block. -/
inductive Reject where
  /-- OPC is not in R84 (R85, R86). -/
  | unknownOpcode
  /-- RSV0 or RSV1 is not zero (R85). -/
  | reservedNonZero
  /-- A field that R81 marks unused for the opcode is not zero (R85). -/
  | unusedNonZero
  /-- The opcode uses SID and `W[95:94]` is not zero (R82, R85). -/
  | sidTooLarge
  /-- ACCEPT's ARG is not a seed in 1..128 (R81, R85). -/
  | seedOutOfRange
  /-- The payload delivered is not exactly the LEN bytes of R83 (no payload at all for the other seven commands). -/
  | payloadLength
  deriving DecidableEq, Repr

/-- The nine opcodes (R84). -/
inductive Opcode where
  | accept | connect | deregister | deliverBytes | requestSend
  | deliverDatagram | requestDatagram | notifyReset | idleTimeout
  deriving DecidableEq, Repr

/-- The OPC value of an opcode (R84). -/
def Opcode.value : Opcode → BitVec 8
  | .accept => 0x01
  | .connect => 0x02
  | .deregister => 0x03
  | .deliverBytes => 0x10
  | .requestSend => 0x11
  | .deliverDatagram => 0x20
  | .requestDatagram => 0x21
  | .notifyReset => 0x30
  | .idleTimeout => 0x31

/-- The opcode an OPC value names; the other 247 values are reserved (R84, R86). -/
def opcodeOf (opc : BitVec 8) : Option Opcode :=
  match opc.toNat with
  | 0x01 => some .accept
  | 0x02 => some .connect
  | 0x03 => some .deregister
  | 0x10 => some .deliverBytes
  | 0x11 => some .requestSend
  | 0x20 => some .deliverDatagram
  | 0x21 => some .requestDatagram
  | 0x30 => some .notifyReset
  | 0x31 => some .idleTimeout
  | _ => none

/-- `NONE` in a stream-id register: the 64-bit all-ones value, outside the 62-bit ids (R62, R82). -/
def noneStreamId : BitVec 64 := 0xFFFFFFFFFFFFFFFF

/-- The 64-bit value of a stream id or `NONE`, in a stream-id register and in the SID field (R82). -/
def streamIdBits : Option StreamId → BitVec 64
  | none => noneStreamId
  | some sid => sid.setWidth 64

/-- The fields of a descriptor (R80). -/
structure Fields where
  opc : BitVec 8
  fin : BitVec 1
  bidi : BitVec 1
  isLocal : BitVec 1
  rsv0 : BitVec 5
  len : BitVec 16
  sid : BitVec 64
  arg : BitVec 16
  rsv1 : BitVec 16
  deriving DecidableEq, Repr

/-- The fields of a descriptor word, each at the bits R80 gives it. -/
def fieldsOf (w : Descriptor) : Fields where
  opc := w.extractLsb' 0 8
  fin := w.extractLsb' 8 1
  bidi := w.extractLsb' 9 1
  isLocal := w.extractLsb' 10 1
  rsv0 := w.extractLsb' 11 5
  len := w.extractLsb' 16 16
  sid := w.extractLsb' 32 64
  arg := w.extractLsb' 96 16
  rsv1 := w.extractLsb' 112 16

/-- The descriptor word with these fields (R80), RSV1 most significant. -/
def wordOf (f : Fields) : Descriptor :=
  f.rsv1 ++ f.arg ++ f.sid ++ f.len ++ f.rsv0 ++ f.isLocal ++ f.bidi ++ f.fin ++ f.opc

/-- Which fields an opcode uses (R81). -/
structure Usage where
  fin : Bool
  attrs : Bool
  len : Bool
  sid : Bool
  arg : Bool
  deriving DecidableEq, Repr

/-- The rows of R81's table. -/
def usageOf : Opcode → Usage
  | .accept => { fin := false, attrs := true, len := false, sid := true, arg := true }
  | .connect => { fin := false, attrs := true, len := false, sid := true, arg := false }
  | .deregister => { fin := false, attrs := false, len := false, sid := false, arg := false }
  | .deliverBytes => { fin := true, attrs := true, len := true, sid := true, arg := false }
  | .requestSend => { fin := false, attrs := false, len := true, sid := true, arg := false }
  | .deliverDatagram => { fin := false, attrs := false, len := true, sid := false, arg := false }
  | .requestDatagram => { fin := false, attrs := false, len := true, sid := false, arg := true }
  | .notifyReset => { fin := false, attrs := false, len := false, sid := true, arg := false }
  | .idleTimeout => { fin := false, attrs := false, len := false, sid := false, arg := false }

/-- RSV0 and RSV1 are zero (R80). -/
def reservedZero (f : Fields) : Bool := f.rsv0 == 0 && f.rsv1 == 0

/-- Every field that R81 marks unused is zero. -/
def unusedZero (u : Usage) (f : Fields) : Bool :=
  (u.fin || f.fin == 0) && (u.attrs || (f.bidi == 0 && f.isLocal == 0)) && (u.len || f.len == 0)
    && (u.sid || f.sid == 0) && (u.arg || f.arg == 0)

/-- Where SID is used it is a 62-bit value: `W[95:94]` is zero (R82). -/
def sidFits (u : Usage) (f : Fields) : Bool := !u.sid || decide (f.sid.toNat < 2 ^ 62)

/-- For ACCEPT, `ARG[15:8]` is zero and `ARG[7:0]` is in 1..128 (R81, R85). -/
def seedFits (op : Opcode) (f : Fields) : Bool :=
  !(op == .accept) || (decide (f.arg.toNat < 256) && seedLegal (f.arg.setWidth 8))

/-- How many payload bytes follow the descriptor (R83). -/
def payloadLength (op : Opcode) (f : Fields) : Nat :=
  match op with
  | .deliverBytes => f.len.toNat
  | .deliverDatagram => f.len.toNat
  | _ => 0

/-- One-bit field to flag. -/
def bitFlag (b : BitVec 1) : Bool := b == 1

/-- The command with these fields and this payload (R81). -/
def buildInstr (op : Opcode) (f : Fields) (payload : List Byte) : Instr :=
  match op with
  | .accept => .accept (f.sid.setWidth 62) (bitFlag f.bidi) (bitFlag f.isLocal) (f.arg.setWidth 8)
  | .connect => .connect (f.sid.setWidth 62) (bitFlag f.bidi) (bitFlag f.isLocal)
  | .deregister => .deregister
  | .deliverBytes => .deliverBytes (f.sid.setWidth 62) (bitFlag f.fin) (bitFlag f.bidi) (bitFlag f.isLocal) payload
  | .requestSend => .requestSend (f.sid.setWidth 62) f.len
  | .deliverDatagram => .deliverDatagram payload
  | .requestDatagram => .requestDatagram f.len f.arg
  | .notifyReset => .notifyReset (f.sid.setWidth 62)
  | .idleTimeout => .idleTimeout

/-- Decode a descriptor and the payload delivered with it (R80 to R86). The payload is looked at last: the payload of
an illegal descriptor is discarded (R85). -/
def decode (w : Descriptor) (payload : List Byte) : Except Reject Instr :=
  match opcodeOf (fieldsOf w).opc with
  | none => .error .unknownOpcode
  | some op =>
    if !reservedZero (fieldsOf w) then .error .reservedNonZero
    else if !unusedZero (usageOf op) (fieldsOf w) then .error .unusedNonZero
    else if !sidFits (usageOf op) (fieldsOf w) then .error .sidTooLarge
    else if !seedFits op (fieldsOf w) then .error .seedOutOfRange
    else if payload.length != payloadLength op (fieldsOf w) then .error .payloadLength
    else .ok (buildInstr op (fieldsOf w) payload)

/-! The encoder. -/

/-- The opcode of a command (R84). -/
def Instr.opcode : Instr → Opcode
  | .accept _ _ _ _ => .accept
  | .connect _ _ _ => .connect
  | .deregister => .deregister
  | .deliverBytes _ _ _ _ _ => .deliverBytes
  | .requestSend _ _ => .requestSend
  | .deliverDatagram _ => .deliverDatagram
  | .requestDatagram _ _ => .requestDatagram
  | .notifyReset _ => .notifyReset
  | .idleTimeout => .idleTimeout

/-- Flag to one-bit field. -/
def flagBit (b : Bool) : BitVec 1 := if b then 1 else 0

/-- The fields of an opcode's descriptor with every operand field zero. -/
def emptyFields (op : Opcode) : Fields :=
  { opc := op.value, fin := 0, bidi := 0, isLocal := 0, rsv0 := 0, len := 0, sid := 0, arg := 0, rsv1 := 0 }

/-- The fields of a command's descriptor (R81). -/
def Instr.fields (i : Instr) : Fields :=
  match i with
  | .accept sid bidi isLocal seed =>
      { emptyFields i.opcode with
        sid := streamIdBits (some sid), bidi := flagBit bidi, isLocal := flagBit isLocal, arg := seed.setWidth 16 }
  | .connect sid bidi isLocal =>
      { emptyFields i.opcode with sid := streamIdBits (some sid), bidi := flagBit bidi, isLocal := flagBit isLocal }
  | .deregister => emptyFields i.opcode
  | .deliverBytes sid fin bidi isLocal payload =>
      { emptyFields i.opcode with
        sid := streamIdBits (some sid), fin := flagBit fin, bidi := flagBit bidi, isLocal := flagBit isLocal,
        len := BitVec.ofNat 16 payload.length }
  | .requestSend sid maxLen => { emptyFields i.opcode with sid := streamIdBits (some sid), len := maxLen }
  | .deliverDatagram payload => { emptyFields i.opcode with len := BitVec.ofNat 16 payload.length }
  | .requestDatagram maxLen pad => { emptyFields i.opcode with len := maxLen, arg := pad }
  | .notifyReset sid => { emptyFields i.opcode with sid := streamIdBits (some sid) }
  | .idleTimeout => emptyFields i.opcode

/-- The payload a command carries (R83). -/
def Instr.payload : Instr → List Byte
  | .accept _ _ _ _ => []
  | .connect _ _ _ => []
  | .deregister => []
  | .deliverBytes _ _ _ _ payload => payload
  | .requestSend _ _ => []
  | .deliverDatagram payload => payload
  | .requestDatagram _ _ => []
  | .notifyReset _ => []
  | .idleTimeout => []

/-- Encode a command: its descriptor word and its payload (R80, R83). -/
def encode (i : Instr) : Descriptor × List Byte := (wordOf i.fields, i.payload)

/-! The match and mask columns of spec/opcode_table.json: a second statement of the same encoding, for claims about
`decode`; no meaning reads them. -/

/-- One row of spec/opcode_table.json. -/
structure TableRow where
  op : Opcode
  matchBits : Descriptor
  mask : Descriptor
  deriving DecidableEq, Repr

/-- The nine rows of spec/opcode_table.json, in the table's order. -/
def opcodeTable : List TableRow :=
  [ ⟨.accept, 0x00000000000000000000000000000001, 0xffffff00c000000000000000fffff9ff⟩,
    ⟨.connect, 0x00000000000000000000000000000002, 0xffffffffc000000000000000fffff9ff⟩,
    ⟨.deregister, 0x00000000000000000000000000000003, 0xffffffffffffffffffffffffffffffff⟩,
    ⟨.deliverBytes, 0x00000000000000000000000000000010, 0xffffffffc0000000000000000000f8ff⟩,
    ⟨.requestSend, 0x00000000000000000000000000000011, 0xffffffffc0000000000000000000ffff⟩,
    ⟨.deliverDatagram, 0x00000000000000000000000000000020, 0xffffffffffffffffffffffff0000ffff⟩,
    ⟨.requestDatagram, 0x00000000000000000000000000000021, 0xffff0000ffffffffffffffff0000ffff⟩,
    ⟨.notifyReset, 0x00000000000000000000000000000030, 0xffffffffc000000000000000ffffffff⟩,
    ⟨.idleTimeout, 0x00000000000000000000000000000031, 0xffffffffffffffffffffffffffffffff⟩ ]

/-- A descriptor matches a row when `W & mask == match` (R80). -/
def TableRow.covers (r : TableRow) (w : Descriptor) : Bool := (w &&& r.mask) == r.matchBits

/-! The host's question about one row of the opcode table. -/

/-- The payload length a descriptor word announces, zero where no payload follows (R83). -/
def announcedPayload (w : Descriptor) : Nat :=
  match opcodeOf (fieldsOf w).opc with
  | none => 0
  | some op => payloadLength op (fieldsOf w)

/-- The descriptor of a table word: the lowest `nbits` bits of `w`, every bit above them zero. -/
def tableDescriptor (nbits w : Nat) : Descriptor := BitVec.ofNat 128 (w % 2 ^ nbits)

/-- The payload that goes with a table word: the LEN bytes it announces, all zero. -/
def tablePayload (nbits w : Nat) : List Byte := List.replicate (announcedPayload (tableDescriptor nbits w)) 0

/-- The command the decoder reads from a table word; none where it refuses. -/
def decodeTableWord (nbits w : Nat) : Option Instr :=
  match decode (tableDescriptor nbits w) (tablePayload nbits w) with
  | .ok i => some i
  | .error _ => none

end Sys2Proof
end

