-- ==== Sys2Proof/Machine/State.lean ====
section
/-! DEFINITION. The state of one block instance (spec/10_state.md), the reasons a step can stop, and block reset
(spec/70_reset_and_hazards.md R290). `Option` stands for a register with the spec's sentinel `NONE` (R11). -/

namespace Sys2Proof.Machine

/-- `S.state` (R22). -/
inductive SessionState where
  | idle | ready | sent | done | protocolError | closed
  deriving DecidableEq, Repr

/-- The 3-bit encoding of `S.state` (R22). -/
def SessionState.code : SessionState → BitVec 3
  | .idle => 0
  | .ready => 1
  | .sent => 2
  | .done => 3
  | .protocolError => 4
  | .closed => 5

/-- `S.role` (R23). -/
inductive Role where
  | responder | initiator
  deriving DecidableEq, Repr

/-- The role's numeric identity, `ROLE_ID` (R9, R23): the value of the role bit. -/
def Role.ident : Role → Nat
  | .responder => 0
  | .initiator => 1

/-- `D.phase` (R36). -/
inductive Phase where
  | idle | len | pad | baton | done
  deriving DecidableEq, Repr

/-- The 3-bit encoding of `D.phase` (R36). -/
def Phase.code : Phase → BitVec 3
  | .idle => 0
  | .len => 1
  | .pad => 2
  | .baton => 3
  | .done => 4

/-- The 8-bit value of a close code (R9, R224). -/
def closeCodeValue : CloseCode → BitVec 8
  | .success => 0
  | .insufficientStreamCredit => 1
  | .malformed => 2
  | .allStreamsReset => 3
  | .idleTimeout => 4

/-- The outcome codes of a reply (R261). -/
inductive OutcomeCode where
  | ok | errFraming | errSequence | errNoCredit | errReset | errTimeout | errNotActive | errIllegal
  deriving DecidableEq, Repr

/-- The 8-bit value of an outcome code (R261). -/
def OutcomeCode.value : OutcomeCode → BitVec 8
  | .ok => 0x00
  | .errFraming => 0x01
  | .errSequence => 0x02
  | .errNoCredit => 0x03
  | .errReset => 0x04
  | .errTimeout => 0x05
  | .errNotActive => 0x06
  | .errIllegal => 0x07

/-- The values of the model-fault register `F.fault` other than `NONE` (R45, R270). -/
inductive ModelFault where
  | turnOverlap | sendAfterFin | counterOverflow
  deriving DecidableEq, Repr

/-- The decode scratch space SCR (R61): (address, byte) pairs, addresses strictly rising. A byte that nothing has
written reads as `NONE` (R37), so an address with no pair is such a byte. -/
abbrev Memory := List Host.Cell

/-- A record of the stream table (R40). -/
structure StreamRecord where
  /-- 1 = bidirectional. -/
  bidi : Bool
  /-- `local`: 1 = initiated locally. -/
  isLocal : Bool
  /-- This side has asserted end-of-stream on its send direction. -/
  finSent : Bool
  /-- The peer's end-of-stream has been delivered. -/
  finReceived : Bool
  /-- A baton byte has been consumed from this stream. -/
  frameDone : Bool
  deriving DecidableEq, Repr

/-- The stream table `T` (R40): (stream id, record) pairs, ids strictly rising, so that equal maps are equal lists.
The key is the id's value. -/
abbrev StreamTable := List (Nat × StreamRecord)

/-- The session registers (R22 to R35). -/
structure Session where
  /-- `S.state`, 3 bits (R22). -/
  state : SessionState
  /-- `S.role`, 1 bit or `NONE` (R23). -/
  role : Option Role
  /-- `S.baton_out` (R24). -/
  batonOut : Option Byte
  /-- `S.baton_in` (R25). -/
  batonIn : Option Byte
  /-- `S.first_baton` (R26). -/
  firstBaton : Option Byte
  /-- `S.turn_count` (R27). -/
  turnCount : Counter
  /-- `S.turns_required` (R28). -/
  turnsRequired : Option Counter
  /-- `S.control_stream_id` (R30). -/
  controlStreamId : Option StreamId
  /-- `S.active_send` (R31). -/
  activeSend : Option StreamId
  /-- `S.active_recv` (R32). -/
  activeRecv : Option StreamId
  /-- `S.ready` (R33). -/
  ready : Bool
  /-- `S.closed` (R33). -/
  closed : Bool
  /-- `S.close_code`, 8 bits or `NONE` (R34). -/
  closeCode : Option CloseCode
  /-- `S.stream_bytes_received` (R35). -/
  streamBytesReceived : Counter
  deriving DecidableEq, Repr

/-- The decoder registers (R36 to R38). -/
structure Decoder where
  /-- `D.phase` (R36). -/
  phase : Phase
  /-- `D.scratch[0..1]` (R37, R61). -/
  scratch : Memory
  /-- `D.scratch_len`, 0..2 (R37). -/
  scratchLen : Nat
  /-- `D.padding_expected` (R38). -/
  paddingExpected : Option PadLen
  /-- `D.padding_received` (R38). -/
  paddingReceived : PadLen
  deriving DecidableEq, Repr

/-- The encoder registers (R39). -/
structure Encoder where
  /-- `E.padding_required` (R39). -/
  paddingRequired : Option PadLen
  /-- `E.prefix_sent`, 0..2 (R39). -/
  prefixSent : Nat
  /-- `E.padding_sent` (R39). -/
  paddingSent : PadLen
  deriving DecidableEq, Repr

/-- The datagram registers (R42, R43). -/
structure Datagram where
  /-- `G.datagram_ready` (R42). -/
  ready : Bool
  /-- `G.next_datagram_value` (R42). -/
  nextValue : Option Byte
  /-- `G.dg_sent` (R43). -/
  sent : Counter
  /-- `G.dg_bytes_sent` (R43). -/
  bytesSent : Counter
  /-- `G.dg_received` (R43). -/
  received : Counter
  /-- `G.dg_bytes_received` (R43). -/
  bytesReceived : Counter
  /-- `G.dg_last_value` (R43). -/
  lastValue : Option Byte
  deriving DecidableEq, Repr

/-- The output events (R47). An open's result is a stream id, or `none` for `FAIL`. -/
inductive Event where
  | openUni (result : Option StreamId)
  | openBidi (result : Option StreamId)
  | writeHeader (sid : StreamId) (bytes : List Byte)
  | markActive (sid : StreamId) (priority : Nat)
  | finStream (sid : StreamId)
  | sendClose (sid : StreamId) (code : CloseCode) (reason : List Byte)
  | closeConnection (code : CloseCode)
  | datagramReady
  deriving DecidableEq, Repr

/-- The reply to a command: outcome, bytes, fin (R87, R260). -/
structure Reply where
  outcome : OutcomeCode
  bytes : List Byte
  fin : Bool
  deriving DecidableEq, Repr

/-- One command as the host delivers it (R66, R80, R83): the descriptor, the payload, and the transport's answer to the
open that the command may cause (R89, R201), `none` for `FAIL`. A command causes at most one open. -/
structure Delivery where
  word : Descriptor
  payload : List Byte
  openAnswer : Option StreamId
  deriving DecidableEq, Repr

/-- The state of one block instance. The first seven fields are the spec's; the last four are the model's own. -/
structure State where
  /-- `S.*` (R22 to R35). -/
  session : Session
  /-- `D.*` (R36 to R38). -/
  dec : Decoder
  /-- `E.*` (R39). -/
  enc : Encoder
  /-- `T` (R40, R41). -/
  table : StreamTable
  /-- `G.*` (R42, R43). -/
  dgram : Datagram
  /-- `F.fault` (R45). -/
  fault : Option ModelFault
  /-- `O`, the output log in emission order (R47). -/
  log : List Event
  /-- The MODEL's own (log entry 3): the reply to the last command (R260); none before the first command and after a
  command that raised a model fault (R270). -/
  reply : Option Reply
  /-- The MODEL's own, DESIGN CHOICE (log entry 1): the commands the host has delivered and the block has not yet
  taken, in delivery order (R66). -/
  inbox : List Delivery
  /-- The MODEL's own, DESIGN CHOICE (log entry 2): the transport's answer to the open the command in progress may
  cause, `Oracle.open` (R201). -/
  openAnswer : Option StreamId
  /-- The MODEL's own (log entry 4): this instance's configuration inputs, which no command writes (R44). -/
  cfg : Params
  deriving DecidableEq, Repr

/-- A register of the spec that can hold `NONE` (R11). -/
inductive RegName where
  | role | batonOut | batonIn | turnsRequired | controlStreamId | activeRecv | nextDatagramValue
  /-- Byte `i` of the decode scratch. -/
  | scratch (i : Nat)
  deriving DecidableEq, Repr

/-- Why the machine stops with no next state. -/
inductive Fault where
  /-- R270: the block is halted by a model fault raised earlier, and the command has no step. Raised by every command
  and by the step itself while `F.fault` is not `NONE`. The spec's own behaviour: safe. -/
  | halted (kind : ModelFault)
  /-- R11: a rule reads a register that holds `NONE` as a number. Raised by the meaning that reads it. The spec says no
  rule of its own does so; it happens only in states that no run reaches. Safe: the model stops. -/
  | noneRead (reg : RegName)
  /-- A rule reads or writes `T[sid]` and `sid` is not in `T` (R11, R40). Raised by the meaning that does so, only in
  states that no run reaches. Safe: the model stops. -/
  | noRecord (sid : StreamId)
  /-- R61: the decode scratch has the addresses 0 and 1 only. Raised by the decoder on a store to another address, only
  in states that no run reaches. Safe: the model stops. -/
  | scratchAddress (address : Nat)
  deriving DecidableEq, Repr

/-- Why a command has no meaning. -/
inductive Refusal where
  /-- Raised only by an arm of `exec` whose instruction has no meaning yet; no arm does. Safe: the model stops. -/
  | notModelled (mnemonic : String)
  /-- R83: the payload the host put beside a legal descriptor is not exactly the LEN bytes the descriptor announces, so
  what was delivered is no command of the spec. Raised by the step alone. DESIGN CHOICE (log entry 5). Safe: the model
  stops. -/
  | payloadMismatch
  deriving DecidableEq, Repr

/-- The outcome of a step or of a meaning. -/
abbrev Result := Host.Outcome State Fault Refusal

/-- `S.*` after block reset (R22 to R35, R48). -/
def Session.reset : Session where
  state := .idle
  role := none
  batonOut := none
  batonIn := none
  firstBaton := none
  turnCount := 0
  turnsRequired := none
  controlStreamId := none
  activeSend := none
  activeRecv := none
  ready := false
  closed := false
  closeCode := none
  streamBytesReceived := 0

/-- `D.*` after block reset (R36 to R38, R48): no scratch byte is written. -/
def Decoder.reset : Decoder where
  phase := .idle
  scratch := []
  scratchLen := 0
  paddingExpected := none
  paddingReceived := 0

/-- `E.*` after block reset (R39, R48). -/
def Encoder.reset : Encoder where
  paddingRequired := none
  prefixSent := 0
  paddingSent := 0

/-- `G.*` after block reset (R42, R43, R48). -/
def Datagram.reset : Datagram where
  ready := false
  nextValue := none
  sent := 0
  bytesSent := 0
  received := 0
  bytesReceived := 0
  lastValue := none

/-- The machine right after block reset (R290): every register at its block-reset value, no command delivered, the
configuration inputs that R9 leaves OPEN unconstrained, and `BIDI_DISPATCH` at the default of R9. -/
def State.reset : State where
  session := .reset
  dec := .reset
  enc := .reset
  table := []
  dgram := .reset
  fault := none
  log := []
  reply := none
  inbox := []
  openAnswer := none
  cfg := Config.params

end Sys2Proof.Machine
end

