-- ==== Sys2Proof/Machine/Ops.lean ====
section
/-! DEFINITION. The named operations the meanings are written with: the decode scratch and the stream table, the
counters, replies and output events, the check every command begins with, a model fault, the close procedure (the
block's one exception entry), clearing the registers, re-arming the decoder, and taking the next command. -/

namespace Sys2Proof.Machine

/-! Finite maps with numeric keys: lists of pairs, keys strictly rising. -/

/-- The value at key `a`; none where the key is not listed. -/
def lookupKey {β : Type} : List (Nat × β) → Nat → Option β
  | [], _ => none
  | (k, v) :: rest, a => if a = k then some v else lookupKey rest a

/-- Store `v` at key `a`, keeping the keys strictly rising. -/
def storeKey {β : Type} : List (Nat × β) → Nat → β → List (Nat × β)
  | [], a, v => [(a, v)]
  | (k, w) :: rest, a, v =>
    if a < k then (a, v) :: (k, w) :: rest
    else if a = k then (a, v) :: rest
    else (k, w) :: storeKey rest a v

/-- The keys rise strictly: no key is listed twice, and equal maps are equal lists. -/
abbrev KeysRise {β : Type} (m : List (Nat × β)) : Prop := m.Pairwise (fun p q => p.1 < q.1)

/-! The decode scratch (R61). -/

/-- `MemRead(SCR, a, 1)` (R12, R61): none where the byte was never written (`NONE`, R37). -/
def Memory.read (m : Memory) (a : Nat) : Option Byte := lookupKey m a

/-- `MemWrite(SCR, a, 1, v)` (R12, R61): none where the address is not 0 or 1. -/
def Memory.write (m : Memory) (a : Nat) (v : Byte) : Option Memory :=
  if a < Config.scratchBytes then some (storeKey m a v) else none

/-- The canonical form of the scratch: addresses strictly rising, and only the two that exist. No entry can equal what
an unlisted address reads as, since `NONE` is no byte. -/
abbrev Memory.wf (m : Memory) : Prop := KeysRise m ∧ ∀ c ∈ m, c.1 < Config.scratchBytes

/-! The stream table (R40). -/

/-- `T[sid]`; none where `sid` is not in `T`. -/
def StreamTable.find (t : StreamTable) (sid : StreamId) : Option StreamRecord := lookupKey t sid.toNat

/-- `T[sid] <- rec`. -/
def StreamTable.put (t : StreamTable) (sid : StreamId) (rec : StreamRecord) : StreamTable :=
  storeKey t sid.toNat rec

/-- The canonical form of the stream table: ids strictly rising, and every id a 62-bit value. -/
abbrev StreamTable.wf (t : StreamTable) : Prop := KeysRise t ∧ ∀ c ∈ t, c.1 < 2 ^ 62

/-- A fresh record: the three progress bits are 0 (R40). -/
def newRecord (bidi isLocal : Bool) : StreamRecord where
  bidi := bidi
  isLocal := isLocal
  finSent := false
  finReceived := false
  frameDone := false

/-! The stream-id registers as 64-bit values, `NONE` all ones (R82). -/

/-- The bits of `S.control_stream_id` (R30, R82). -/
def Session.controlStreamIdBits (x : Session) : BitVec 64 := streamIdBits x.controlStreamId

/-- The bits of `S.active_send` (R31, R82). -/
def Session.activeSendBits (x : Session) : BitVec 64 := streamIdBits x.activeSend

/-- The bits of `S.active_recv` (R32, R82). -/
def Session.activeRecvBits (x : Session) : BitVec 64 := streamIdBits x.activeRecv

/-! Updates of the state. -/

/-- Update the session registers. -/
def State.onSession (s : State) (f : Session → Session) : State := { s with session := f s.session }

/-- Update the decoder registers. -/
def State.onDec (s : State) (f : Decoder → Decoder) : State := { s with dec := f s.dec }

/-- Update the encoder registers. -/
def State.onEnc (s : State) (f : Encoder → Encoder) : State := { s with enc := f s.enc }

/-- Update the datagram registers. -/
def State.onDgram (s : State) (f : Datagram → Datagram) : State := { s with dgram := f s.dgram }

/-- `T[sid]` of this state. -/
def State.record (s : State) (sid : StreamId) : Option StreamRecord := s.table.find sid

/-- `T[sid] <- rec`. -/
def State.putRecord (s : State) (sid : StreamId) (rec : StreamRecord) : State :=
  { s with table := s.table.put sid rec }

/-- `Emit(ev)`: append an output event (R12, R47). -/
def State.emit (s : State) (e : Event) : State := { s with log := s.log ++ [e] }

/-- `Reply(outcome, bytes, fin)` (R12, R260). -/
def State.replied (s : State) (outcome : OutcomeCode) (bytes : List Byte) (fin : Bool) : State :=
  { s with reply := some { outcome := outcome, bytes := bytes, fin := fin } }

/-! Endings of a command. -/

/-- End the command with `Reply(outcome)`: no bytes, fin 0 (R260). -/
def answer (outcome : OutcomeCode) (s : State) : Result := .next (s.replied outcome [] false)

/-- `raise Fault(kind)` (R270): write `F.fault` and halt. The command gives no reply; everything it wrote stays. -/
def raiseFault (kind : ModelFault) (s : State) : Result := .next { s with fault := some kind, reply := none }

/-- Read a register that must not be `NONE` here (R11). -/
def needed {α : Type} (reg : RegName) (value : Option α) (k : α → Result) : Result :=
  match value with
  | some v => k v
  | none => .fault (.noneRead reg)

/-- Read `T[sid]` where the rule takes `sid` to be in `T`. -/
def withRecord (s : State) (sid : StreamId) (k : StreamRecord → Result) : Result :=
  match s.record sid with
  | some rec => k rec
  | none => .fault (.noRecord sid)

/-- A 64-bit counter plus `n`; none where the sum passes 2^64 - 1, which is the model fault `COUNTER_OVERFLOW` (R270). -/
def addCounter (c : Counter) (n : Nat) : Option Counter :=
  if c.toNat + n < 2 ^ 64 then some (BitVec.ofNat 64 (c.toNat + n)) else none

/-! What every command begins with. -/

/-- A session is in progress: the states in which R175 accepts the stream and datagram commands. -/
def inSession : SessionState → Bool
  | .idle => false
  | .ready => true
  | .sent => true
  | .done => true
  | .protocolError => true
  | .closed => false

/-- No session exists: where R175 accepts ACCEPT and CONNECT. -/
def noSession : SessionState → Bool
  | .idle => true
  | .ready => false
  | .sent => false
  | .done => false
  | .protocolError => false
  | .closed => false

/-- A session exists, closed or not: where R174 accepts DEREGISTER. -/
def sessionExists (st : SessionState) : Bool := !noSession st

/-- The checks 1 to 3 of R263, in that order: `check_halt()` (R270), `check_descriptor()` (R85), the gating of R175;
then the body of the command. -/
def checked (i : Instr) (accepts : SessionState → Bool) (s : State) (body : State → Result) : Result :=
  match s.fault with
  | some kind => .fault (.halted kind)
  | none =>
    if !i.wf then answer .errIllegal s
    else if !accepts s.session.state then answer .errNotActive s
    else body s

/-! The close procedure (R220): the block's one exception entry (R264). It has no return (R265). -/

/-- `REASON(code)` of this instance (R9, D7). -/
def reasonOf (p : Params) : CloseCode → List Byte
  | .success => p.reasons.success
  | .insufficientStreamCredit => p.reasons.insufficientStreamCredit
  | .malformed => p.reasons.malformed
  | .allStreamsReset => p.reasons.allStreamsReset
  | .idleTimeout => p.reasons.idleTimeout

/-- `S.state <- CLOSED; S.closed <- 1` (R33, R220). -/
def State.markClosed (s : State) : State := s.onSession fun x => { x with state := .closed, closed := true }

/-- The close message on the control stream `c` with record `rec`, and what it records (R220). -/
def State.sendClose (s : State) (c : StreamId) (rec : StreamRecord) (code : CloseCode) : State :=
  ((s.emit (.sendClose c code (reasonOf s.cfg code))).putRecord c { rec with finSent := true }).onSession
    fun x => { x with closeCode := some code }

/-- The effect of `CLOSE(code, ..)` on the control stream `c` with record `rec`: the message is sent only where the
control stream is not finished (R220, R221). -/
def State.closeOn (s : State) (c : StreamId) (rec : StreamRecord) (code : CloseCode) : State :=
  (if rec.finSent then s else s.sendClose c rec code).markClosed

/-- Run the close procedure, then end the command with `k`. -/
def closeThen (code : CloseCode) (s : State) (k : State → Result) : Result :=
  needed .controlStreamId s.session.controlStreamId fun c =>
    withRecord s c fun rec => k (s.closeOn c rec code)

/-- `raise Close(code, outcome)` (R220): close the session and end the command with `Reply(outcome)`. -/
def closeSession (code : CloseCode) (outcome : OutcomeCode) (s : State) : Result :=
  closeThen code s (answer outcome)

/-! Session creation and release, re-arm. -/

/-- Every register of spec/10_state.md to its block-reset value, except `F.fault` and `O` (R170, R172, R174). -/
def State.clearRegisters (s : State) : State :=
  { s with session := .reset, dec := .reset, enc := .reset, table := [], dgram := .reset }

/-- Session creation, the part ACCEPT and CONNECT share (R170, R172, R291). -/
def State.createSession (s : State) (role : Role) (sid : StreamId) (bidi isLocal : Bool) (batonOut : Option Byte) :
    State :=
  (s.clearRegisters.putRecord sid (newRecord bidi isLocal)).onSession fun x =>
    { x with
      role := some role, state := .ready, ready := true, closed := false, batonOut := batonOut,
      turnsRequired := some s.cfg.turnsRequired, controlStreamId := some sid }

/-- Re-arm (R132): the decoder registers to idle and the receive stream released. The scratch bytes, `S.baton_in` and
the stream table keep their values. -/
def State.rearm (s : State) : State :=
  (s.onDec fun d =>
    { d with phase := .idle, scratchLen := 0, paddingExpected := none, paddingReceived := 0 }).onSession
    fun x => { x with activeRecv := none }

/-! Taking the next command. -/

/-- Take the oldest delivered command out of the inbox (R66), its open answer becoming `Oracle.open` of the command. -/
def fetch (s : State) : Option (Delivery × State) :=
  match s.inbox with
  | [] => none
  | d :: rest => some (d, { s with inbox := rest, openAnswer := d.openAnswer })

/-- What the block does with delivered bits that decode to no command: an illegal descriptor changes nothing and is
answered ERR_ILLEGAL (R85); a payload of another length than LEN is no command of the spec (R83). -/
def rejectDelivery (why : Reject) (s : State) : Result :=
  match why with
  | .unknownOpcode => answer .errIllegal s
  | .reservedNonZero => answer .errIllegal s
  | .unusedNonZero => answer .errIllegal s
  | .sidTooLarge => answer .errIllegal s
  | .seedOutOfRange => answer .errIllegal s
  | .payloadLength => .refused .payloadMismatch

end Sys2Proof.Machine
end

