-- ==== Sys2Proof/Machine/Operands.lean ====
section
/-! DEFINITION. The wire formats the block reads and writes (spec/30_encoding.md R100 to R106) and the two padding
choices (spec/41_encoder.md R152, spec/45_datagram.md R243). All are functions of bytes and numbers, not of the state. -/

namespace Sys2Proof.Machine

/-- `vlen(b0)` (R101): the encoded length a first byte announces, `1 << b0[7:6]`. -/
def vlen (b0 : Byte) : Nat := 1 <<< (b0.extractLsb' 6 2).toNat

/-- The value of an encoded variable-length integer (R100): the first byte's low 6 bits, then the other bytes, most
significant first. -/
def varintValue : List Byte → Nat
  | [] => 0
  | b0 :: rest => rest.foldl (fun acc b => acc * 256 + b.toNat) (b0.extractLsb' 0 6).toNat

/-- The low `n` bytes of a number, most significant first (R63). -/
def bigEndian : Nat → Nat → List Byte
  | 0, _ => []
  | n + 1, v => bigEndian n (v / 256) ++ [BitVec.ofNat 8 v]

/-- `varint(v)`, the minimal encoding (R102), for a value below 2^62. -/
def varint (v : Nat) : List Byte :=
  if v ≤ Config.pad1bMax then bigEndian 1 v
  else if v ≤ Config.pad2bMax then bigEndian 2 (0b01 * 2 ^ 14 + v)
  else if v ≤ 2 ^ 30 - 1 then bigEndian 4 (0b10 * 2 ^ 30 + v)
  else bigEndian 8 (0b11 * 2 ^ 62 + v)

/-- `varint(p) ++ p zero bytes ++ [b]`: a baton frame (R103, R153) and a datagram (R106). Padding bytes are zero
(R155). -/
def frame (p : Nat) (b : Byte) : List Byte := varint p ++ List.replicate p 0 ++ [b]

/-- The stream-open header `varint(tag) ++ varint(control stream)` (R105). -/
def header (tag : BitVec 62) (control : StreamId) : List Byte := varint tag.toNat ++ varint control.toNat

/-- `choose_padding(m)` for an offer of `m ≥ 1` bytes (R152). -/
def choosePadding (batonOut : Byte) (m : Nat) : PadLen :=
  if batonOut = 0 then 0
  else if m = 1 then BitVec.ofNat 14 Config.pad1bMax
  else BitVec.ofNat 14 Config.pad2bMax

/-- The largest padding length of a datagram of at most `cap ≥ 2` bytes (R242, R243). -/
def pmax (cap : Nat) : Nat := if cap ≤ 66 then min (cap - 2) Config.pad1bMax else cap - 3

/-- The size cap of an offered datagram (R242). -/
def dgramCap (m : BitVec 16) : Nat := min m.toNat Config.dgramMax

/-- The datagram a non-declined offer produces (R242). -/
def dgramBytes (m pad : BitVec 16) (value : Byte) : List Byte :=
  frame (pad.toNat % (pmax (dgramCap m) + 1)) value

/-- The baton of a received datagram, its trailing byte, where the datagram is well formed (R244): a 1- or 2-byte
prefix and exactly as many bytes as it declares. None where it is discarded. -/
def dgramBaton (bytes : List Byte) : Option Byte :=
  match bytes with
  | [] => none
  | b0 :: _ =>
    if vlen b0 > 2 ∨ bytes.length < vlen b0 then none
    else if bytes.length ≠ vlen b0 + varintValue (bytes.take (vlen b0)) + 1 then none
    else bytes.getLast?

end Sys2Proof.Machine
end

