-- ==== Sys2Proof/Machine/Flags.lean ====
section
/-! DEFINITION. The conditions and the baton arithmetic the rules compute (spec/42_session_fsm.md R180 to R187,
spec/40_decoder.md R121), each from register values. -/

namespace Sys2Proof.Machine

/-- `add8(x, y)`: addition modulo 256 (R10, R187). -/
def add8 (x y : Byte) : Byte := x + y

/-- The terminal test of step 3: `turn_count >= turns_required`, unsigned (R183). -/
def isTerminal (turnsRequired turnCount : Counter) : Bool := decide (turnsRequired.toNat ≤ turnCount.toNat)

/-- `corrupt_active` (R29). -/
def corruptActive (turnsRequired : Counter) : Bool := turnsRequired == Config.corruptTrigger

/-- The corruption branch is taken when the turn is not terminal (R184). -/
def corrupts (turnsRequired turnCount : Counter) : Bool :=
  corruptActive turnsRequired && decide (Config.corruptMinTurn ≤ turnCount.toNat)

/-- The corrupted baton (R184): plus 31, a result of 0 replaced by 1. -/
def corruptBaton (b : Byte) : Byte :=
  if add8 b Config.corruptAdd = 0 then 1 else add8 b Config.corruptAdd

/-- `S.baton_out` after step 3: the terminal branch first (R183), then corruption (R184), else plus 1 (R185). -/
def nextBaton (turnsRequired turnCount : Counter) (b : Byte) : Byte :=
  if isTerminal turnsRequired turnCount then 0
  else if corrupts turnsRequired turnCount then corruptBaton b
  else add8 b 1

/-- `S.state` after step 3 (R183 to R185). -/
def nextState (turnsRequired turnCount : Counter) : SessionState :=
  if isTerminal turnsRequired turnCount then .done else .sent

/-- The datagram arming condition of step 4 (R186). -/
def armsDatagram (b : Byte) (role : Role) : Bool :=
  b.toNat % Config.dgramModulus == role.ident && !(b == 0)

/-- The first violated host duty of a delivery, if any (R121): bytes for the control stream, for a locally-opened
unidirectional stream, after the stream's end, or for an unknown stream claimed local. -/
def streamRefused (s : State) (sid : StreamId) (isLocal : Bool) : Bool :=
  s.session.controlStreamId == some sid ||
    match s.record sid with
    | some rec => (!rec.bidi && rec.isLocal) || rec.finReceived
    | none => isLocal

end Sys2Proof.Machine
end

