-- ==== Sys2Proof/Machine/Close.lean ====
section
/-! DEFINITION. The commands that force a close: NOTIFY_RESET and IDLE_TIMEOUT (spec/44_close.md R222, R223). -/

namespace Sys2Proof.Machine

/-- The initiator also tears down the connection (R222). -/
def State.tearDown (s : State) (role : Role) : State :=
  match role with
  | .responder => s
  | .initiator => s.emit (.closeConnection .allStreamsReset)

/-- NOTIFY_RESET (R222), for any stream id (D54). -/
def execNotifyReset (sid : StreamId) (s : State) : Result :=
  checked (.notifyReset sid) inSession s fun s =>
    closeThen .allStreamsReset s fun s' =>
      needed .role s'.session.role fun role => answer .errReset (s'.tearDown role)

/-- IDLE_TIMEOUT (R223). -/
def execIdleTimeout (s : State) : Result :=
  checked .idleTimeout inSession s (closeSession .idleTimeout .errTimeout)

end Sys2Proof.Machine
end

