-- ==== Sys2Proof/Machine/Datagram.lean ====
section
/-! DEFINITION. The datagram commands REQUEST_DATAGRAM and DELIVER_DATAGRAM (spec/45_datagram.md R242 to R245). -/

namespace Sys2Proof.Machine

/-- `G.dg_sent`, then `G.dg_bytes_sent` (R242). -/
def countSent (n : Nat) (s : State) (k : State → Result) : Result :=
  match addCounter s.dgram.sent 1 with
  | none => raiseFault .counterOverflow s
  | some sent =>
    match addCounter s.dgram.bytesSent n with
    | none => raiseFault .counterOverflow (s.onDgram fun g => { g with sent := sent })
    | some bytes => k (s.onDgram fun g => { g with sent := sent, bytesSent := bytes })

/-- `G.dg_received`, then `G.dg_bytes_received` (R244). -/
def countReceived (n : Nat) (s : State) (k : State → Result) : Result :=
  match addCounter s.dgram.received 1 with
  | none => raiseFault .counterOverflow s
  | some received =>
    match addCounter s.dgram.bytesReceived n with
    | none => raiseFault .counterOverflow (s.onDgram fun g => { g with received := received })
    | some bytes => k (s.onDgram fun g => { g with received := received, bytesReceived := bytes })

/-- REQUEST_DATAGRAM (R242). -/
def execRequestDatagram (maxLen pad : BitVec 16) (s : State) : Result :=
  checked (.requestDatagram maxLen pad) inSession s fun s =>
    if !s.dgram.ready || decide (dgramCap maxLen < 2) then answer .ok s
    else
      needed .nextDatagramValue s.dgram.nextValue fun value =>
        countSent (dgramBytes maxLen pad value).length (s.onDgram fun g => { g with ready := false }) fun s' =>
          .next (s'.replied .ok (dgramBytes maxLen pad value) false)

/-- DELIVER_DATAGRAM (R244): a malformed datagram is discarded silently. -/
def execDeliverDatagram (payload : List Byte) (s : State) : Result :=
  checked (.deliverDatagram payload) inSession s fun s =>
    match dgramBaton payload with
    | none => answer .ok s
    | some value =>
      countReceived payload.length (s.onDgram fun g => { g with lastValue := some value }) (answer .ok)

end Sys2Proof.Machine
end

