-- ==== Sys2Proof/Machine/Relay.lean ====
section
/-! DEFINITION. The relay dispatcher, the internal step DISPATCH (spec/43_dispatcher.md R200 to R208). -/

namespace Sys2Proof.Machine

/-- The routes of a dispatch (R202). -/
inductive Route where
  | newUni | newBidi | same
  deriving DecidableEq, Repr

/-- `select(inbound)` (R202), from the inbound stream's record; none at session start. -/
def selectRoute (reading : BidiDispatch) (inbound : Option StreamRecord) : Route :=
  match inbound with
  | none => .newUni
  | some rec =>
    if !rec.bidi then .newBidi
    else match reading, rec.isLocal with
      | .asDocumented, false => .newUni
      | .asDocumented, true => .same
      | .swapped, false => .same
      | .swapped, true => .newUni

/-- The event of an open request and its answer (R201). -/
def openEvent (bidi : Bool) (result : Option StreamId) : Event :=
  if bidi then .openBidi result else .openUni result

/-- The header tag of a new stream (R202). -/
def headerTag (p : Params) (bidi : Bool) : BitVec 62 := if bidi then p.tagBidi else p.tagUni

/-- Arming (R204): credit this side's turn, reset the encode scratch, make `sid` the send stream, and only then ask the
transport to mark it active. -/
def armStream (sid : StreamId) (s : State) : Result :=
  match addCounter s.session.turnCount 1 with
  | none => raiseFault .counterOverflow s
  | some turns =>
    answer .ok
      (((s.onSession fun x => { x with turnCount := turns, activeSend := some sid }).onEnc fun _ => .reset).emit
        (.markActive sid s.cfg.sendPriority))

/-- The new stream's record and header (R200, R203). -/
def State.headStream (s : State) (bidi : Bool) (sid control : StreamId) : State :=
  (s.putRecord sid (newRecord bidi true)).emit (.writeHeader sid (header (headerTag s.cfg bidi) control))

/-- The routes NEW_UNI and NEW_BIDI: open, then close on failure (R207), else record, header (R203) and arming. -/
def openAndArm (bidi : Bool) (s : State) : Result :=
  match s.openAnswer with
  | none => closeSession .insufficientStreamCredit .errNoCredit (s.emit (openEvent bidi none))
  | some sid =>
    needed .controlStreamId s.session.controlStreamId fun control =>
      armStream sid ((s.emit (openEvent bidi (some sid))).headStream bidi sid control)

/-- The route SAME (R205). -/
def armSame (sid : StreamId) (rec : StreamRecord) (s : State) : Result :=
  if rec.finSent then raiseFault .sendAfterFin s else armStream sid s

/-- `DISPATCH(inbound)` for an inbound stream with record `rec` (R200). -/
def dispatchInbound (sid : StreamId) (rec : StreamRecord) (s : State) : Result :=
  match selectRoute s.cfg.bidiDispatch (some rec) with
  | .newUni => openAndArm false s
  | .newBidi => openAndArm true s
  | .same => armSame sid rec s

/-- `DISPATCH(inbound)` (R200); the overlap test precedes route selection (R206, R263). -/
def dispatchTurn (inbound : Option StreamId) (s : State) : Result :=
  match s.session.activeSend with
  | some _ => raiseFault .turnOverlap s
  | none =>
    match inbound with
    | none => openAndArm false s
    | some sid => withRecord s sid fun rec => dispatchInbound sid rec s

end Sys2Proof.Machine
end

