-- ==== Sys2Proof/Machine/TurnCheck.lean ====
section
/-! DEFINITION. The turn check, the internal step TURN_CHECK (spec/42_session_fsm.md R180 to R187), and the arming of
the datagram side-channel (spec/45_datagram.md R240). -/

namespace Sys2Proof.Machine

/-- `ARM_DATAGRAM(b)` (R240). -/
def State.armDatagram (s : State) (b : Byte) : State :=
  (s.onDgram fun g => { g with nextValue := some b, ready := true }).emit .datagramReady

/-- The inbound stream is a remotely-opened bidirectional stream whose send direction is open (R180). -/
def finOwed (rec : StreamRecord) : Bool := rec.bidi && !rec.isLocal && !rec.finSent

/-- Step 1, the zero baton (R180): finish a remotely-opened bidirectional inbound stream, then close with SUCCESS. -/
def zeroBaton (r : StreamId) (rec : StreamRecord) (s : State) : Result :=
  closeSession .success .ok
    ((if finOwed rec then (s.emit (.finStream r)).putRecord r { rec with finSent := true } else s).onSession
      fun x => { x with state := .done })

/-- Step 4 (R186): arm the datagram side-channel where the condition holds. -/
def State.mirrorBaton (s : State) (b : Byte) (role : Role) : State :=
  if armsDatagram b role then s.armDatagram b else s

/-- `S.first_baton <- b` where it is `NONE` (R183). -/
def State.noteFirst (s : State) (b : Byte) : State :=
  s.onSession fun x => { x with firstBaton := some (x.firstBaton.getD b) }

/-- Steps 3 to 5 (R183 to R186) for the accepted baton `b` of inbound stream `r`. -/
def acceptTurn (b : Byte) (r : StreamId) (s : State) : Result :=
  match addCounter s.session.turnCount 1 with
  | none => raiseFault .counterOverflow (s.noteFirst b)
  | some turns =>
    needed .turnsRequired s.session.turnsRequired fun n =>
      needed .role s.session.role fun role =>
        dispatchTurn (some r)
          (((s.noteFirst b).onSession fun x =>
            { x with turnCount := turns, batonOut := some (nextBaton n turns b), state := nextState n turns }).mirrorBaton
            b role)

/-- Step 2, the sequence check (R181, R182), for a baton other than 0. -/
def sequenceCheck (b : Byte) (r : StreamId) (s : State) : Result :=
  match s.session.firstBaton with
  | none => acceptTurn b r s
  | some _ =>
    needed .batonOut s.session.batonOut fun prev =>
      if b = add8 prev 1 then acceptTurn b r s
      else closeSession .malformed .errSequence (s.onSession fun x => { x with state := .protocolError })

/-- `TURN_CHECK()` (R180), with `b = S.baton_in` and `r = S.active_recv`. -/
def turnCheck (s : State) : Result :=
  needed .batonIn s.session.batonIn fun b =>
    needed .activeRecv s.session.activeRecv fun r =>
      if b = 0 then withRecord s r fun rec => zeroBaton r rec s else sequenceCheck b r s

end Sys2Proof.Machine
end

