-- ==== Sys2Proof/Machine/Decoder.lean ====
section
/-! DEFINITION. The resumable frame decoder and the command DELIVER_BYTES (spec/40_decoder.md R120 to R134). -/

namespace Sys2Proof.Machine

/-- What processing bytes answers. -/
inductive ByteRun where
  /-- The bytes were processed; `completed` when one of them was the baton (R128). -/
  | ok (s : State) (completed : Bool)
  /-- A byte was a framing violation; `s` is what the command wrote before the close (R264). -/
  | violation (s : State)
  /-- A read that the rules exclude (only in states that no run reaches). -/
  | stuck (f : Fault)
  deriving DecidableEq, Repr

/-- The first `need` bytes of the scratch; none where one of them was never written. -/
def scratchPrefix (m : Memory) : Nat → Option (List Byte)
  | 0 => some []
  | n + 1 =>
    match scratchPrefix m n, m.read n with
    | some bs, some b => some (bs ++ [b])
    | _, _ => none

/-- Prefix completion (R125). -/
def Decoder.beginPadding (d : Decoder) (expected : PadLen) : Decoder :=
  { d with
    paddingExpected := some expected, paddingReceived := 0, phase := if expected = 0 then .baton else .pad }

/-- A prefix byte has been stored: violation, complete, or wait for the next byte (R124, R125). -/
def prefixStored (s : State) : ByteRun :=
  match s.dec.scratch.read 0 with
  | none => .stuck (.noneRead (.scratch 0))
  | some b0 =>
    if vlen b0 > 2 then .violation s
    else if s.dec.scratchLen = vlen b0 then
      match scratchPrefix s.dec.scratch (vlen b0) with
      | none => .stuck (.noneRead (.scratch 1))
      | some bs => .ok (s.onDec fun d => d.beginPadding (BitVec.ofNat 14 (varintValue bs))) false
    else .ok s false

/-- Phase `D_LEN`: store the byte at `D.scratch[D.scratch_len]` (R124). -/
def lenByte (b : Byte) (s : State) : ByteRun :=
  match s.dec.scratch.write s.dec.scratchLen b with
  | none => .stuck (.scratchAddress s.dec.scratchLen)
  | some m => prefixStored (s.onDec fun d => { d with scratch := m, scratchLen := d.scratchLen + 1 })

/-- One more padding byte consumed (R127). -/
def Decoder.countPadding (d : Decoder) : Decoder :=
  { d with
    paddingReceived := d.paddingReceived + 1,
    phase := if d.paddingExpected = some (d.paddingReceived + 1) then .baton else d.phase }

/-- Phase `D_BATON`: the byte is the baton (R128). -/
def batonByte (sid : StreamId) (b : Byte) (s : State) : ByteRun :=
  match s.record sid with
  | none => .stuck (.noRecord sid)
  | some rec =>
    .ok (((s.onSession fun x => { x with batonIn := some b }).putRecord sid { rec with frameDone := true }).onDec
      fun d => { d with phase := .done }) true

/-- One byte of a delivery on stream `sid`, by `D.phase` (R120). No byte is processed in `D_IDLE`: the command has left
that phase by R123, so the arm stands only for a state with no receive stream. -/
def decodeByte (sid : StreamId) (b : Byte) (s : State) : ByteRun :=
  match s.dec.phase with
  | .idle => .stuck (.noneRead .activeRecv)
  | .len => lenByte b s
  | .pad => .ok (s.onDec Decoder.countPadding) false
  | .baton => batonByte sid b s
  | .done => .violation s

/-- The bytes of a delivery in order, the first violating byte deciding (R120, R124 to R129, R263). -/
def decodeBytes (sid : StreamId) : List Byte → Bool → State → ByteRun
  | [], completed, s => .ok s completed
  | b :: rest, completed, s =>
    match decodeByte sid b s with
    | .ok s' now => decodeBytes sid rest (completed || now) s'
    | .violation s' => .violation s'
    | .stuck f => .stuck f

/-- A stream seen for the first time gets its record, remote (R41, R121). -/
def State.knowStream (s : State) (sid : StreamId) (bidi : Bool) : State :=
  match s.record sid with
  | some _ => s
  | none => s.putRecord sid (newRecord bidi false)

/-- The first byte of a turn fixes the receive stream (R123). -/
def State.associate (s : State) (sid : StreamId) : State :=
  if s.dec.phase = .idle then
    (s.onSession fun x => { x with activeRecv := some sid }).onDec fun d => { d with phase := .len }
  else s

/-- `raise Close(MALFORMED, ERR_FRAMING)`: a framing violation (R225, R262). -/
def framingViolation (s : State) : Result := closeSession .malformed .errFraming s

/-- Completion (R131): the turn check where this delivery consumed the baton. -/
def finishDelivery (completed : Bool) (s : State) : Result :=
  if completed then turnCheck s else answer .ok s

/-- `T[sid].fin_received <- 1`, then `k`. -/
def recordFin (sid : StreamId) (s : State) (k : State → Result) : Result :=
  withRecord s sid fun rec => k (s.putRecord sid { rec with finReceived := true })

/-- End-of-stream handling after the bytes of a delivery (R130), then completion. -/
def endOfRange (sid : StreamId) (fin completed : Bool) (s : State) : Result :=
  if !fin then finishDelivery completed s
  else if s.dec.phase ≠ .done then framingViolation s
  else recordFin sid s (finishDelivery completed)

/-- `empty_range(sid, fin)` (R123). -/
def emptyRange (sid : StreamId) (fin : Bool) (s : State) : Result :=
  if !fin then answer .ok s
  else if s.session.activeRecv = some sid ∧ s.dec.phase ≠ .done then framingViolation s
  else recordFin sid s (answer .ok)

/-- A range of at least one byte: the frame-done check (R126), the second-stream check (R123), then the bytes. -/
def byteRange (sid : StreamId) (fin : Bool) (payload : List Byte) (s : State) : Result :=
  withRecord s sid fun rec =>
    if rec.frameDone then framingViolation s
    else if s.dec.phase ≠ .idle ∧ s.session.activeRecv ≠ some sid then framingViolation s
    else
      match decodeBytes sid payload false (s.associate sid) with
      | .ok s' completed => endOfRange sid fin completed s'
      | .violation s' => framingViolation s'
      | .stuck f => .fault f

/-- A delivery on a stream the table knows: count its bytes (R122), then decode. -/
def receiveRange (sid : StreamId) (fin : Bool) (payload : List Byte) (s : State) : Result :=
  match addCounter s.session.streamBytesReceived payload.length with
  | none => raiseFault .counterOverflow s
  | some total =>
    if payload = [] then emptyRange sid fin (s.onSession fun x => { x with streamBytesReceived := total })
    else byteRange sid fin payload (s.onSession fun x => { x with streamBytesReceived := total })

/-- DELIVER_BYTES (R120). -/
def execDeliverBytes (sid : StreamId) (fin bidi isLocal : Bool) (payload : List Byte) (s : State) : Result :=
  checked (.deliverBytes sid fin bidi isLocal payload) inSession s fun s =>
    if streamRefused s sid isLocal then answer .errIllegal s
    else receiveRange sid fin payload (s.knowStream sid bidi)

end Sys2Proof.Machine
end

