-- ==== Sys2Proof/Machine/Encoder.lean ====
section
/-! DEFINITION. The frame encoder and the command REQUEST_SEND (spec/41_encoder.md R150 to R159). -/

namespace Sys2Proof.Machine

/-- `off`: how many bytes of the frame are already written (R154). -/
def Encoder.written (e : Encoder) : Nat := e.prefixSent + e.paddingSent.toNat

/-- `advance(k)` for a frame of padding length `p` (R154): prefix bytes first, then padding, then the baton. -/
def Encoder.advance (e : Encoder) (p : PadLen) (k : Nat) : Encoder :=
  let prefixNow := min k ((varint p.toNat).length - e.prefixSent)
  { e with
    prefixSent := e.prefixSent + prefixNow,
    paddingSent := BitVec.ofNat 14 (e.paddingSent.toNat + min (k - prefixNow) (p.toNat - e.paddingSent.toNat)) }

/-- `k`: how many frame bytes an offer of `m` bytes takes (R154). -/
def sendCount (e : Encoder) (f : List Byte) (m : Nat) : Nat := min m (f.length - e.written)

/-- The frame bytes an offer of `m` bytes takes (R154). -/
def sendBytes (e : Encoder) (f : List Byte) (m : Nat) : List Byte := (f.drop e.written).take (sendCount e f m)

/-- Completion (R156, R157): the stream is finished and released, the decoder re-armed, and the state is SENT unless it
is DONE. -/
def State.completeFrame (s : State) (sid : StreamId) (rec : StreamRecord) : State :=
  ((s.putRecord sid { rec with finSent := true }).onSession fun x =>
    { x with activeSend := none, state := if x.state = .done then .done else .sent }).rearm

/-- Write what fits of the frame with padding length `p` and baton `b` (R153, R154, R156). -/
def writeFrame (sid : StreamId) (p : PadLen) (b : Byte) (m : Nat) (s : State) : Result :=
  let f := frame p.toNat b
  let s' := s.onEnc fun e => ({ e with paddingRequired := some p } : Encoder).advance p (sendCount e f m)
  if s.enc.written + sendCount s.enc f m = f.length then
    withRecord s' sid fun rec =>
      .next ((s'.completeFrame sid rec).replied .ok (sendBytes s.enc f m) true)
  else .next (s'.replied .ok (sendBytes s.enc f m) false)

/-- REQUEST_SEND (R150). -/
def execRequestSend (sid : StreamId) (maxLen : BitVec 16) (s : State) : Result :=
  checked (.requestSend sid maxLen) inSession s fun s =>
    if s.session.activeSend ≠ some sid ∨ maxLen = 0 then answer .ok s
    else
      needed .batonOut s.session.batonOut fun b =>
        writeFrame sid (s.enc.paddingRequired.getD (choosePadding b maxLen.toNat)) b maxLen.toNat s

end Sys2Proof.Machine
end

