-- ==== Sys2Proof/Machine/Lifecycle.lean ====
section
/-! DEFINITION. Session creation and release: ACCEPT, CONNECT and DEREGISTER (spec/42_session_fsm.md R170 to R175). -/

namespace Sys2Proof.Machine

/-- ACCEPT (R170): create a responder session and dispatch its first frame (R171). -/
def execAccept (sid : StreamId) (bidi isLocal : Bool) (seed : Byte) (s : State) : Result :=
  checked (.accept sid bidi isLocal seed) noSession s fun s =>
    dispatchTurn none (s.createSession .responder sid bidi isLocal (some seed))

/-- CONNECT (R172): create an initiator session. -/
def execConnect (sid : StreamId) (bidi isLocal : Bool) (s : State) : Result :=
  checked (.connect sid bidi isLocal) noSession s fun s =>
    answer .ok (s.createSession .initiator sid bidi isLocal none)

/-- DEREGISTER (R174): a responder session is released, an initiator session marked closed. -/
def execDeregister (s : State) : Result :=
  checked .deregister sessionExists s fun s =>
    needed .role s.session.role fun role =>
      match role with
      | .responder => answer .ok s.clearRegisters
      | .initiator => answer .ok ({ s with table := [] }.markClosed)

end Sys2Proof.Machine
end

