-- ==== Sys2Proof/Machine/Dispatch.lean ====
section
/-! DEFINITION. The meaning of each command (spec/30_encoding.md R84), one arm per constructor of `Instr`. -/

namespace Sys2Proof.Machine

def exec (i : Instr) (s : State) : Host.Outcome State Fault Refusal :=
  match i with
  | .accept sid bidi isLocal seed => Sys2Proof.Machine.execAccept sid bidi isLocal seed s
  | .connect sid bidi isLocal => Sys2Proof.Machine.execConnect sid bidi isLocal s
  | .deregister => Sys2Proof.Machine.execDeregister s
  | .deliverBytes sid fin bidi isLocal payload => Sys2Proof.Machine.execDeliverBytes sid fin bidi isLocal payload s
  | .requestSend sid maxLen => Sys2Proof.Machine.execRequestSend sid maxLen s
  | .deliverDatagram payload => Sys2Proof.Machine.execDeliverDatagram payload s
  | .requestDatagram maxLen pad => Sys2Proof.Machine.execRequestDatagram maxLen pad s
  | .notifyReset sid => Sys2Proof.Machine.execNotifyReset sid s
  | .idleTimeout => Sys2Proof.Machine.execIdleTimeout s

end Sys2Proof.Machine
end

