-- ==== Sys2Proof/Machine/Step.lean ====
section
/-! DEFINITION. One step of the block: take the oldest delivered command and run it (spec/20_memory.md R66). The block
fetches nothing at a program counter (spec/10_state.md R21): the host's deliveries are its program. -/

namespace Sys2Proof.Machine

/-- One step. A halted block has no step (R270); with no command delivered the block waits, unchanged (R290, R298);
otherwise the oldest delivery is taken, decoded, and run. -/
def step (s : State) : Host.Outcome State Fault Refusal :=
  match s.fault with
  | some kind => .fault (.halted kind)
  | none =>
    match fetch s with
    | none => .next s
    | some (d, s') =>
      match decode d.word d.payload with
      | .ok i => exec i s'
      | .error why => rejectDelivery why s'

/-- Deliver the command of a table word as the next command the block takes: its descriptor, the zero payload it
announces, and the open answer the state already holds. -/
def State.withFetchWord (s : State) (nbits w : Nat) : State :=
  { s with
    inbox :=
      { word := tableDescriptor nbits w, payload := tablePayload nbits w, openAnswer := s.openAnswer } :: s.inbox }

end Sys2Proof.Machine
end

