-- ==== Sys2Proof/Safety.lean ====
section
/-! DEFINITION. What claims about the block speak of: the end of a run (spec/70_reset_and_hazards.md R298), the
transport's contract for opens (spec/43_dispatcher.md R201), the invariants the spec gives its registers
(spec/40_decoder.md R134, spec/41_encoder.md R158), and two ways to run several commands. -/

namespace Sys2Proof.Machine

/-! The end of a run (R298). -/

/-- A good end state: no model fault, and the session closed or released. -/
abbrev GoodEnd (s : State) : Prop :=
  s.fault = none ∧ (s.session.state = .closed ∨ s.session.state = .idle)

/-- An unfinished run: it ends with a session in progress, with or without a model fault. -/
abbrev Unfinished (s : State) : Prop :=
  s.session.state = .ready ∨ s.session.state = .sent ∨ s.session.state = .done

/-- A faulted run. The rule does not make it exclusive of an unfinished one: a run can be both (program P10 of
spec/95_test_vectors.md ends in SENT with TURN_OVERLAP). -/
abbrev Faulted (s : State) : Prop := s.fault ≠ none

/-- The block is not halted and a session is in progress: the stream and datagram commands are accepted (R175). -/
abbrev Live (s : State) : Prop := s.fault = none ∧ inSession s.session.state = true

/-! The transport's contract (R201, R293). -/

/-- The stream a command names, if it names one. -/
def namedStream : Instr → Option StreamId
  | .accept sid _ _ _ => some sid
  | .connect sid _ _ => some sid
  | .deregister => none
  | .deliverBytes sid _ _ _ _ => some sid
  | .requestSend sid _ => some sid
  | .deliverDatagram _ => none
  | .requestDatagram _ _ => none
  | .notifyReset sid => some sid
  | .idleTimeout => none

/-- The answer to the open that command `i` may cause is `FAIL` or a fresh stream: one that is not in `T` and is not
the stream the command itself brings into `T` (R201). -/
abbrev OpenFresh (i : Instr) (s : State) : Prop :=
  ∀ a ∈ s.openAnswer, s.record a = none ∧ namedStream i ≠ some a

/-- The answer delivered with the next command keeps the contract. -/
abbrev ContractKept (s : State) : Prop :=
  ∀ d ∈ s.inbox.head?, ∀ i ∈ (decode d.word d.payload).toOption, OpenFresh i { s with openAnswer := d.openAnswer }

/-! The canonical form of the two finite maps. -/

/-- The stream table and the decode scratch are in canonical form. -/
abbrev Canonical (s : State) : Prop := s.table.wf ∧ s.dec.scratch.wf

/-! Invariants between commands. -/

/-- DEREGISTER of an initiator session has emptied the table (R174), leaving the registers that name streams as they
were, and the session closed. -/
abbrev TableReleased (s : State) : Prop :=
  s.session.state = .closed ∧ s.session.role = some .initiator ∧ s.table = []

/-- The decoder registers (R36 to R38, R134), in every session state and in a halted block too. R134's last clause
leaves out only the states in which R174 has emptied the table under the decoder (log entry 12). -/
abbrev DecoderCoherent (s : State) : Prop :=
  s.dec.scratchLen ≤ 2 ∧
  (s.dec.paddingExpected = none ↔ s.dec.phase = .idle ∨ s.dec.phase = .len) ∧
  (s.dec.phase = .idle ↔ s.session.activeRecv = none) ∧
  (s.dec.phase = .idle → s.dec.scratchLen = 0) ∧
  (∀ e ∈ s.dec.paddingExpected, s.dec.paddingReceived.toNat ≤ e.toNat) ∧
  (s.dec.phase = .pad → ∀ e ∈ s.dec.paddingExpected, s.dec.paddingReceived.toNat < e.toNat) ∧
  (s.dec.phase = .done →
    (s.session.activeRecv.bind s.record).map (·.frameDone) = some true ∨ TableReleased s)

/-- The encoder registers (R39, R158): with no padding decision nothing is written; once it is made, the whole prefix
has been written (R154: no call ends inside a prefix) and never more padding than decided. -/
abbrev EncoderCoherent (s : State) : Prop :=
  s.enc.prefixSent ≤ 2 ∧
  (s.enc.paddingRequired = none → s.enc.prefixSent = 0 ∧ s.enc.paddingSent = 0) ∧
  (∀ p ∈ s.enc.paddingRequired,
    s.enc.paddingSent.toNat ≤ p.toNat ∧ s.enc.prefixSent = (varint p.toNat).length)

/-- The session registers (R22, R33, R48): the closed flag is the closed state, no command ends in PROTOCOL_ERROR, an
instance with no session holds block-reset values, and one with a session knows its role, turns and control stream. -/
abbrev SessionCoherent (s : State) : Prop :=
  (s.session.closed = true ↔ s.session.state = .closed) ∧
  s.session.state ≠ .protocolError ∧
  (s.session.state = .idle →
    s.session = .reset ∧ s.dec = .reset ∧ s.enc = .reset ∧ s.table = [] ∧ s.dgram = .reset) ∧
  (s.session.state ≠ .idle →
    s.session.role ≠ none ∧ s.session.turnsRequired ≠ none ∧ s.session.controlStreamId ≠ none ∧
      s.session.ready = true) ∧
  (s.dgram.ready = true → s.dgram.nextValue ≠ none)

/-- What holds while a session is in progress: the control stream is known, unfinished and carries no frame (R221), no
close message was sent, the stream being received is known, the stream being sent is known and unfinished (R158), a
half-read prefix announces two bytes (R124), and there is a baton to send or to compare with whenever a rule reads it
(R24). -/
abbrev LiveCoherent (s : State) : Prop :=
  (s.session.controlStreamId.bind s.record).map (·.finSent) = some false ∧
  s.session.closeCode = none ∧
  s.session.activeRecv ≠ s.session.controlStreamId ∧
  s.session.activeSend ≠ s.session.controlStreamId ∧
  (∀ r ∈ s.session.activeRecv, s.record r ≠ none) ∧
  (∀ a ∈ s.session.activeSend, (s.record a).map (·.finSent) = some false) ∧
  (s.dec.phase = .len →
    s.dec.scratchLen = 0 ∨ (s.dec.scratchLen = 1 ∧ (s.dec.scratch.read 0).map vlen = some 2)) ∧
  (s.session.firstBaton ≠ none ∨ s.session.activeSend ≠ none → s.session.batonOut ≠ none)

/-- The invariant of the block between commands. -/
abbrev Coherent (s : State) : Prop :=
  Canonical s ∧ DecoderCoherent s ∧ EncoderCoherent s ∧ SessionCoherent s ∧ (Live s → LiveCoherent s)

/-- R158's last clause in every session state and in a halted block too, leaving out only the states in which R174 has
emptied the table under the encoder (log entry 12). The second part is what keeps it while a session is in progress: a
frame queued before the decoder has finished one is the responder's first, on a stream that nothing is received on. -/
abbrev SendCoherent (s : State) : Prop :=
  (∀ a ∈ s.session.activeSend, (s.record a).map (·.finSent) = some false ∨ TableReleased s) ∧
  (Live s → ∀ a ∈ s.session.activeSend, s.dec.phase = .done ∨
    (s.record a).map (fun rec => (rec.bidi, rec.isLocal)) = some (false, true))

/-! Descriptors and byte strings. -/

/-- A descriptor is illegal (R85), with the used fields of R81's table written out opcode by opcode. -/
def IllegalDescriptor (w : Descriptor) : Prop :=
  (∀ op : Opcode, w.extractLsb' 0 8 ≠ op.value) ∨
  w.extractLsb' 11 5 ≠ 0 ∨ w.extractLsb' 112 16 ≠ 0 ∨
  ∃ op : Opcode, w.extractLsb' 0 8 = op.value ∧
    ((op ∉ [.deliverBytes] ∧ w.extractLsb' 8 1 ≠ 0) ∨
     (op ∉ [.accept, .connect, .deliverBytes] ∧ (w.extractLsb' 9 1 ≠ 0 ∨ w.extractLsb' 10 1 ≠ 0)) ∨
     (op ∉ [.deliverBytes, .requestSend, .deliverDatagram, .requestDatagram] ∧ w.extractLsb' 16 16 ≠ 0) ∨
     (op ∉ [.accept, .connect, .deliverBytes, .requestSend, .notifyReset] ∧ w.extractLsb' 32 64 ≠ 0) ∨
     (op ∈ [.accept, .connect, .deliverBytes, .requestSend, .notifyReset] ∧ w.extractLsb' 94 2 ≠ 0) ∨
     (op ∉ [.accept, .requestDatagram] ∧ w.extractLsb' 96 16 ≠ 0) ∨
     (op = .accept ∧
       (w.extractLsb' 104 8 ≠ 0 ∨ (w.extractLsb' 96 8).toNat < 1 ∨ 128 < (w.extractLsb' 96 8).toNat)))

/-- A padding-length prefix the decoder accepts (R101): one or two bytes, as many as the first announces. -/
abbrev IsPrefix (pfx : List Byte) : Prop := pfx.head?.map vlen = some pfx.length ∧ pfx.length ≤ 2

/-- The bytes of one baton frame as a peer may send it (R103): an accepted prefix, as many padding bytes as it says,
with any content, and the baton. -/
abbrev IsFrame (pfx padding : List Byte) : Prop := IsPrefix pfx ∧ padding.length = varintValue pfx

/-- The conditions under which R121 refuses a delivery on `sid`. -/
def HostDutyBroken (s : State) (sid : StreamId) (isLocal : Bool) : Prop :=
  s.session.controlStreamId = some sid ∨
  (∃ rec, s.record sid = some rec ∧ rec.bidi = false ∧ rec.isLocal = true) ∨
  (∃ rec, s.record sid = some rec ∧ rec.finReceived = true) ∨
  (s.record sid = none ∧ isLocal = true)

/-- How many close messages a log holds. -/
def closeMessages (log : List Event) : Nat :=
  log.countP fun e =>
    match e with
    | .openUni _ => false
    | .openBidi _ => false
    | .writeHeader _ _ => false
    | .markActive _ _ => false
    | .finStream _ => false
    | .sendClose _ _ _ => true
    | .closeConnection _ => false
    | .datagramReady => false

/-! Runs of several commands. -/

/-- A command together with the transport's answer to the open it may cause (R89). -/
abbrev Command := Instr × Option StreamId

/-- Run commands in order, stopping at the first that has no next state. -/
def runCommands : List Command → State → Result
  | [], s => .next s
  | (i, answer) :: rest, s =>
    match exec i { s with openAnswer := answer } with
    | .next s' => runCommands rest s'
    | .fault f => .fault f
    | .refused r => .refused r

/-- Deliver ranges of one stream in order, the last one with `fin`, as DELIVER_BYTES commands. -/
def deliverRanges (sid : StreamId) (fin bidi isLocal : Bool) : List (List Byte) → State → Result
  | [], s => .next s
  | [last], s => exec (.deliverBytes sid fin bidi isLocal last) s
  | bytes :: rest, s =>
    match exec (.deliverBytes sid false bidi isLocal bytes) s with
    | .next s' => deliverRanges sid fin bidi isLocal rest s'
    | .fault f => .fault f
    | .refused r => .refused r

/-- Offer send space for one stream again and again; the bytes written, in order, and the state after the last offer.
None where an offer has no next state. -/
def offerSpace (sid : StreamId) : List (BitVec 16) → State → Option (List Byte × State)
  | [], s => some ([], s)
  | m :: rest, s =>
    match exec (.requestSend sid m) s with
    | .next s' =>
      match offerSpace sid rest s' with
      | some (bytes, t) => some ((s'.reply.map (·.bytes)).getD [] ++ bytes, t)
      | none => none
    | .fault _ => none
    | .refused _ => none

/-- The commands of the datagram side-channel (R245). -/
def isDatagramCommand : Instr → Bool
  | .accept _ _ _ _ => false
  | .connect _ _ _ => false
  | .deregister => false
  | .deliverBytes _ _ _ _ _ => false
  | .requestSend _ _ => false
  | .deliverDatagram _ => true
  | .requestDatagram _ _ => true
  | .notifyReset _ => false
  | .idleTimeout => false

/-- Two states agree on everything but the datagram registers, the last reply, the pending deliveries and the open
answer: the stream-based state of R245. -/
abbrev StreamAgree (s t : State) : Prop :=
  s.session = t.session ∧ s.dec = t.dec ∧ s.enc = t.enc ∧ s.table = t.table ∧ s.fault = t.fault ∧ s.log = t.log ∧
    s.cfg = t.cfg

end Sys2Proof.Machine
end

