-- ==== Sys2Proof/Certificates/Slice0/Obligations.lean ====
section
/-! DEFINITION. The statements for the provers. Each docstring names the rule of spec/ it formalises; where a clause
rests on a choice of the model, it names the log entry. -/

open Sys2Proof Sys2Proof.Machine

/-! ### Encoding -/

/-- Decoding the encoding of a well-formed command gives the command back, with every operand at every value
(R80 to R84). -/
def Obligations.DecodeOfEncode : Prop :=
  ∀ i : Instr, i.WellFormed → decode (encode i).1 (encode i).2 = .ok i

/-- Every word has at most one meaning: whatever decodes is the encoding of the well-formed command it decodes to. Its
SID field is the 64-bit value of the stream the command names, and never the one of `NONE` (R82). -/
def Obligations.EncodeOfDecode : Prop :=
  ∀ (w : Descriptor) (payload : List Byte) (i : Instr), decode w payload = .ok i →
    i.WellFormed ∧ encode i = (w, payload) ∧
    (∀ sid ∈ namedStream i, w.extractLsb' 32 64 = streamIdBits (some sid)) ∧
    w.extractLsb' 32 64 ≠ streamIdBits none

/-- The decoder, written from the field table of R80 and R81, accepts exactly the words that match a row of
spec/opcode_table.json (R80: `W & mask == match`), with ACCEPT's seed in 1..128 and the payload R83 asks for. -/
def Obligations.DecodeAgreesWithOpcodeTable : Prop :=
  ∀ (w : Descriptor) (payload : List Byte) (op : Opcode),
    (∃ i, decode w payload = .ok i ∧ i.opcode = op) ↔
      (∃ r ∈ opcodeTable, r.op = op ∧ r.covers w = true) ∧
      (op = .accept → 1 ≤ (w.extractLsb' 96 8).toNat ∧ (w.extractLsb' 96 8).toNat ≤ 128) ∧
      payload.length = announcedPayload w

/-- The example descriptors of spec/95_test_vectors.md section 3.1 decode to the commands their assembler text names. -/
def Obligations.SpecWordsDecode : Prop :=
  decode 0x00000029000000000000000000000201 [] = .ok (.accept 0 true false 0x29) ∧
  decode 0x00000000000000000000000000000602 [] = .ok (.connect 0 true true) ∧
  decode 0x00000000000000000000000000000003 [] = .ok .deregister ∧
  decode 0x00000000000000000000000400020310 [0x00, 0x2a] = .ok (.deliverBytes 4 true true false [0x00, 0x2a]) ∧
  decode 0x00000000000000000000000704b00011 [] = .ok (.requestSend 7 1200) ∧
  decode 0x00000000000000000000000000030020 [0x01, 0x00, 0x2a] = .ok (.deliverDatagram [0x01, 0x00, 0x2a]) ∧
  decode 0x00000005000000000000000006000021 [] = .ok (.requestDatagram 1536 5) ∧
  decode 0x00000000000000000000000400000030 [] = .ok (.notifyReset 4) ∧
  decode 0x00000000000000000000000000000031 [] = .ok .idleTimeout

/-- R85: an illegal descriptor changes no register, appends nothing to the log and is answered ERR_ILLEGAL, in every
session state. Only the model's own record of what was delivered moves on (log entries 1 to 3). -/
def Obligations.IllegalDescriptorChangesNothing : Prop :=
  ∀ (s : State) (d : Delivery) (rest : List Delivery),
    s.fault = none → s.inbox = d :: rest → IllegalDescriptor d.word →
    step s = .next { s with
      inbox := rest, openAnswer := d.openAnswer, reply := some { outcome := .errIllegal, bytes := [], fin := false } }

/-- R100, R102: the minimal encoding of a value has the length its first byte announces, decodes to the value, and is
1, 2, 4 or 8 bytes long by the thresholds of R102. -/
def Obligations.VarintRoundTrip : Prop :=
  ∀ v : Nat, v < 2 ^ 62 →
    varintValue (varint v) = v ∧
    (varint v).head?.map vlen = some (varint v).length ∧
    (varint v).length = if v ≤ 0x3F then 1 else if v ≤ 0x3FFF then 2 else if v ≤ 2 ^ 30 - 1 then 4 else 8

/-- R104: the three frames the encoder produces, byte for byte, with their lengths. -/
def Obligations.EncoderFrameShapes : Prop :=
  (∀ m, 1 ≤ m → frame (choosePadding 0 m).toNat 0 = [0x00, 0x00]) ∧
  (∀ b : Byte, b ≠ 0 →
    frame (choosePadding b 1).toNat b = [0x3F] ++ List.replicate 63 0x00 ++ [b] ∧
    (frame (choosePadding b 1).toNat b).length = 65) ∧
  (∀ (b : Byte) (m : Nat), b ≠ 0 → 2 ≤ m →
    frame (choosePadding b m).toNat b = [0x7F, 0xFF] ++ List.replicate 16383 0x00 ++ [b] ∧
    (frame (choosePadding b m).toNat b).length = 16386)

/-! ### The step -/

/-- When the oldest delivery decodes to a command, the step is that command's meaning, in the state with the delivery
taken out and its open answer in place. The inbox and the open answer are the model's own (log entries 1 and 2). -/
def Obligations.StepRunsTheDecodedCommand : Prop :=
  ∀ (s : State) (d : Delivery) (rest : List Delivery) (i : Instr),
    s.fault = none → s.inbox = d :: rest → decode d.word d.payload = .ok i →
    i.WellFormed ∧ step s = exec i { s with inbox := rest, openAnswer := d.openAnswer }

/-- With no command delivered the block waits: the step changes nothing (the model's choice, log entry 1). -/
def Obligations.StepWaitsForACommand : Prop :=
  ∀ s : State, s.fault = none → s.inbox = [] → step s = .next s

/-- R270: once a model fault is recorded, no command and no delivery has a step. -/
def Obligations.HaltedBlockHasNoStep : Prop :=
  ∀ (s : State) (kind : ModelFault), s.fault = some kind →
    step s = .fault (.halted kind) ∧ ∀ i, exec i s = .fault (.halted kind)

/-- R175: in IDLE only ACCEPT and CONNECT, in CLOSED only DEREGISTER, and ACCEPT and CONNECT only in IDLE; any other
command is answered ERR_NOT_ACTIVE with no bytes and changes nothing else. -/
def Obligations.GatingRefuses : Prop :=
  ∀ (i : Instr) (s : State), s.fault = none → i.WellFormed →
    ((s.session.state = .idle ∧ i.opcode ∉ [.accept, .connect]) ∨
     (s.session.state = .closed ∧ i.opcode ≠ .deregister) ∨
     (s.session.state ≠ .idle ∧ i.opcode ∈ [.accept, .connect])) →
    exec i s = .next { s with reply := some { outcome := .errNotActive, bytes := [], fin := false } }

/-- R260: a command that ends without a model fault gives exactly one reply, with one outcome code, and with no bytes
and fin 0 unless it is REQUEST_SEND or REQUEST_DATAGRAM; a command that raises a model fault gives none, and in a block
already halted no command has a next state. -/
def Obligations.EveryCommandReplies : Prop :=
  ∀ (i : Instr) (s t : State), exec i s = .next t →
    s.fault = none ∧
    (t.fault ≠ none → t.reply = none) ∧
    (t.fault = none → ∃ r, t.reply = some r ∧
      (i.opcode ∉ [.requestSend, .requestDatagram] → r.bytes = [] ∧ r.fin = false) ∧
      (i.opcode = .requestDatagram → r.fin = false))

/-! ### Session creation and release -/

/-- R170, R171: ACCEPT in IDLE, with the transport answering the open with stream `a`, creates the responder session
and arms its first frame. -/
def Obligations.AcceptCreatesAndDispatches : Prop :=
  ∀ (s : State) (sid : StreamId) (bidi isLocal : Bool) (seed : Byte) (a : StreamId),
    s.fault = none → s.session.state = .idle → 1 ≤ seed.toNat → seed.toNat ≤ 128 → s.openAnswer = some a →
    exec (.accept sid bidi isLocal seed) s = .next { s with
      session := { Session.reset with
        state := .ready, role := some .responder, batonOut := some seed, turnCount := 1,
        turnsRequired := some s.cfg.turnsRequired, controlStreamId := some sid, activeSend := some a, ready := true }
      dec := .reset
      enc := .reset
      dgram := .reset
      table := StreamTable.put (StreamTable.put [] sid (newRecord bidi isLocal)) a (newRecord false true)
      log := s.log ++
        [.openUni (some a), .writeHeader a (varint s.cfg.tagUni.toNat ++ varint sid.toNat),
          .markActive a s.cfg.sendPriority]
      reply := some { outcome := .ok, bytes := [], fin := false } }

/-- R170, R207: ACCEPT whose open fails closes the session at once, with turn_count 0 and no stream armed. -/
def Obligations.AcceptWithoutCreditCloses : Prop :=
  ∀ (s : State) (sid : StreamId) (bidi isLocal : Bool) (seed : Byte),
    s.fault = none → s.session.state = .idle → 1 ≤ seed.toNat → seed.toNat ≤ 128 → s.openAnswer = none →
    exec (.accept sid bidi isLocal seed) s = .next { s with
      session := { Session.reset with
        state := .closed, closed := true, role := some .responder, batonOut := some seed,
        turnsRequired := some s.cfg.turnsRequired, controlStreamId := some sid, ready := true,
        closeCode := some .insufficientStreamCredit }
      dec := .reset
      enc := .reset
      dgram := .reset
      table := StreamTable.put [] sid { newRecord bidi isLocal with finSent := true }
      log := s.log ++
        [.openUni none, .sendClose sid .insufficientStreamCredit s.cfg.reasons.insufficientStreamCredit]
      reply := some { outcome := .errNoCredit, bytes := [], fin := false } }

/-- R172: CONNECT in IDLE creates the initiator session and emits nothing. -/
def Obligations.ConnectCreatesInitiator : Prop :=
  ∀ (s : State) (sid : StreamId) (bidi isLocal : Bool),
    s.fault = none → s.session.state = .idle →
    exec (.connect sid bidi isLocal) s = .next { s with
      session := { Session.reset with
        state := .ready, role := some .initiator, turnsRequired := some s.cfg.turnsRequired,
        controlStreamId := some sid, ready := true }
      dec := .reset
      enc := .reset
      dgram := .reset
      table := StreamTable.put [] sid (newRecord bidi isLocal)
      reply := some { outcome := .ok, bytes := [], fin := false } }

/-- R174: DEREGISTER of a responder session, in every state but IDLE, releases it: every register at its block-reset
value except F.fault and O, and no close message. -/
def Obligations.DeregisterReleasesResponder : Prop :=
  ∀ s : State, s.fault = none → s.session.state ≠ .idle → s.session.role = some .responder →
    exec .deregister s = .next { s with
      session := .reset, dec := .reset, enc := .reset, table := [], dgram := .reset,
      reply := some { outcome := .ok, bytes := [], fin := false } }

/-- R174: DEREGISTER of an initiator session, in every state but IDLE, empties the stream table and marks the session
closed; nothing else changes and no close message is sent. -/
def Obligations.DeregisterMarksInitiatorClosed : Prop :=
  ∀ s : State, s.fault = none → s.session.state ≠ .idle → s.session.role = some .initiator →
    exec .deregister s = .next { s with
      session := { s.session with state := .closed, closed := true }, table := [],
      reply := some { outcome := .ok, bytes := [], fin := false } }

/-! ### DELIVER_BYTES -/

/-- R121: a delivery that breaks a host duty is answered ERR_ILLEGAL with no change; any other delivery goes on with the
stream in `T`, a stream not known before entering as a remote stream with the delivered direction; for a known stream
the delivered attributes are ignored. -/
def Obligations.StreamChecksOfDelivery : Prop :=
  ∀ (s : State) (sid : StreamId) (fin bidi isLocal : Bool) (payload : List Byte), Live s → payload.length < 2 ^ 16 →
    (HostDutyBroken s sid isLocal →
      exec (.deliverBytes sid fin bidi isLocal payload) s =
        .next { s with reply := some { outcome := .errIllegal, bytes := [], fin := false } }) ∧
    (¬ HostDutyBroken s sid isLocal → s.record sid = none →
      exec (.deliverBytes sid fin bidi isLocal payload) s =
        receiveRange sid fin payload { s with
          table := s.table.put sid
            { bidi := bidi, isLocal := false, finSent := false, finReceived := false, frameDone := false } }) ∧
    (¬ HostDutyBroken s sid isLocal → s.record sid ≠ none →
      exec (.deliverBytes sid fin bidi isLocal payload) s = receiveRange sid fin payload s)

/-- R122: a delivery that passes R121 adds its whole length to the received-byte counter, whatever becomes of it; a sum
past 2^64 - 1 raises COUNTER_OVERFLOW instead, before any decoding. -/
def Obligations.ReceivedBytesAreCounted : Prop :=
  ∀ (s : State) (sid : StreamId) (fin bidi isLocal : Bool) (payload : List Byte), Live s → payload.length < 2 ^ 16 →
    ¬ HostDutyBroken s sid isLocal →
    (s.session.streamBytesReceived.toNat + payload.length < 2 ^ 64 →
      ∀ t, exec (.deliverBytes sid fin bidi isLocal payload) s = .next t →
        t.session.streamBytesReceived.toNat = s.session.streamBytesReceived.toNat + payload.length) ∧
    (2 ^ 64 ≤ s.session.streamBytesReceived.toNat + payload.length →
      exec (.deliverBytes sid fin bidi isLocal payload) s =
        .next { s.knowStream sid bidi with fault := some .counterOverflow, reply := none })

/-- R127: bytes that all fall inside the padding are counted, whatever their content, and change nothing else; the phase
becomes D_BATON exactly when the padding is complete. -/
def Obligations.PaddingIsConsumed : Prop :=
  ∀ (s : State) (sid : StreamId) (bidi isLocal : Bool) (payload : List Byte) (rec : StreamRecord) (e : PadLen),
    Live s → s.session.controlStreamId ≠ some sid → s.record sid = some rec →
    rec.frameDone = false → rec.finReceived = false → (rec.bidi = true ∨ rec.isLocal = false) →
    s.dec.phase = .pad → s.session.activeRecv = some sid → s.dec.paddingExpected = some e →
    payload ≠ [] → s.dec.paddingReceived.toNat + payload.length ≤ e.toNat →
    s.session.streamBytesReceived.toNat + payload.length < 2 ^ 64 →
    exec (.deliverBytes sid false bidi isLocal payload) s = .next { s with
      session := { s.session with
        streamBytesReceived := BitVec.ofNat 64 (s.session.streamBytesReceived.toNat + payload.length) }
      dec := { s.dec with
        paddingReceived := BitVec.ofNat 14 (s.dec.paddingReceived.toNat + payload.length)
        phase := if s.dec.paddingReceived.toNat + payload.length = e.toNat then .baton else .pad }
      reply := some { outcome := .ok, bytes := [], fin := false } }

/-- R123 to R125, R127, R128, R130, R131: a whole frame delivered from D_IDLE on a stream that carried none, with or
without its end-of-stream, is decoded into its baton and runs the turn check; what the decoder wrote is stated, with the
scratch bytes by their addresses, and everything else is as it was. -/
def Obligations.WholeFrameRunsTheTurnCheck : Prop :=
  ∀ (s : State) (sid : StreamId) (fin bidi isLocal : Bool) (pfx padding : List Byte) (b : Byte),
    Live s → s.dec.phase = .idle → s.dec.scratchLen = 0 → ¬ HostDutyBroken s sid isLocal →
    (∀ rec ∈ s.record sid, rec.frameDone = false) → IsFrame pfx padding →
    s.session.streamBytesReceived.toNat + (pfx ++ padding ++ [b]).length < 2 ^ 64 →
    ∃ m : Memory,
      m.read 0 = pfx[0]? ∧ m.read 1 = (if pfx.length = 2 then pfx[1]? else s.dec.scratch.read 1) ∧
      (∀ a, 2 ≤ a → m.read a = s.dec.scratch.read a) ∧
      exec (.deliverBytes sid fin bidi isLocal (pfx ++ padding ++ [b])) s = turnCheck { s with
        session := { s.session with
          activeRecv := some sid, batonIn := some b,
          streamBytesReceived :=
            BitVec.ofNat 64 (s.session.streamBytesReceived.toNat + (pfx ++ padding ++ [b]).length) }
        dec := { s.dec with
          phase := .done, scratch := m, scratchLen := pfx.length,
          paddingExpected := some (BitVec.ofNat 14 padding.length),
          paddingReceived := BitVec.ofNat 14 padding.length }
        table := (s.knowStream sid bidi).table.put sid
          { (s.record sid).getD (newRecord bidi false) with frameDone := true, finReceived := fin } }

/-- R129: a byte after the baton in the delivery that completes the frame closes the session with MALFORMED; the baton
stays recorded and the turn check does not run. The first part is a frame delivered whole; the second is a frame in any
phase, begun by this delivery or by an earlier one, that the bytes before `extra` complete. -/
def Obligations.ByteAfterBatonCloses : Prop :=
  (∀ (s : State) (sid : StreamId) (fin bidi isLocal : Bool) (pfx padding extra : List Byte) (b : Byte),
    Live s → Coherent s → s.dec.phase = .idle → ¬ HostDutyBroken s sid isLocal →
    (∀ rec ∈ s.record sid, rec.frameDone = false) → IsFrame pfx padding → extra ≠ [] →
    (pfx ++ padding ++ [b] ++ extra).length < 2 ^ 16 →
    s.session.streamBytesReceived.toNat + (pfx ++ padding ++ [b] ++ extra).length < 2 ^ 64 →
    ∃ t, exec (.deliverBytes sid fin bidi isLocal (pfx ++ padding ++ [b] ++ extra)) s = .next t ∧
      t.session.state = .closed ∧ t.session.closed = true ∧ t.session.closeCode = some .malformed ∧
      t.reply = some { outcome := .errFraming, bytes := [], fin := false } ∧
      t.dec.phase = .done ∧ t.session.batonIn = some b ∧
      t.session.firstBaton = s.session.firstBaton ∧ t.session.turnCount = s.session.turnCount ∧
      t.session.batonOut = s.session.batonOut ∧ t.session.activeSend = s.session.activeSend ∧
      t.enc = s.enc ∧ t.dgram = s.dgram ∧ t.fault = none) ∧
  (∀ (s u : State) (sid : StreamId) (fin bidi isLocal : Bool) (bytes extra : List Byte) (c : StreamId)
    (crec : StreamRecord),
    Live s → ¬ HostDutyBroken s sid isLocal → (∀ rec ∈ s.record sid, rec.frameDone = false) →
    (s.dec.phase = .idle ∨ s.session.activeRecv = some sid) → extra ≠ [] → (bytes ++ extra).length < 2 ^ 16 →
    s.session.streamBytesReceived.toNat + (bytes ++ extra).length < 2 ^ 64 →
    decodeBytes sid bytes false
      (((s.knowStream sid bidi).onSession fun x => { x with
        streamBytesReceived := BitVec.ofNat 64 (s.session.streamBytesReceived.toNat + (bytes ++ extra).length)
        }).associate sid) = .ok u true →
    u.session.controlStreamId = some c → u.record c = some crec → crec.finSent = false →
    exec (.deliverBytes sid fin bidi isLocal (bytes ++ extra)) s = .next { u with
      session := { u.session with state := .closed, closed := true, closeCode := some .malformed }
      table := u.table.put c { crec with finSent := true }
      log := s.log ++ [.sendClose c .malformed s.cfg.reasons.malformed]
      reply := some { outcome := .errFraming, bytes := [], fin := false } } ∧
    u.dec.phase = .done ∧ u.session.batonIn = bytes.getLast? ∧
    u.session.firstBaton = s.session.firstBaton ∧ u.session.turnCount = s.session.turnCount ∧
    u.session.batonOut = s.session.batonOut ∧ u.session.activeSend = s.session.activeSend ∧
    u.enc = s.enc ∧ u.dgram = s.dgram ∧ u.fault = none)

/-- R101, R124: a prefix whose first byte announces 4 or 8 bytes closes the session with MALFORMED; the byte is in the
scratch, and no baton is recorded. -/
def Obligations.LongPrefixCloses : Prop :=
  ∀ (s : State) (sid : StreamId) (fin bidi isLocal : Bool) (b0 : Byte) (rest : List Byte),
    Live s → Coherent s → s.dec.phase = .idle → ¬ HostDutyBroken s sid isLocal →
    (∀ rec ∈ s.record sid, rec.frameDone = false) → 0x80 ≤ b0.toNat → (b0 :: rest).length < 2 ^ 16 →
    s.session.streamBytesReceived.toNat + (b0 :: rest).length < 2 ^ 64 →
    ∃ t, exec (.deliverBytes sid fin bidi isLocal (b0 :: rest)) s = .next t ∧
      t.session.state = .closed ∧ t.session.closed = true ∧ t.session.closeCode = some .malformed ∧
      t.reply = some { outcome := .errFraming, bytes := [], fin := false } ∧
      t.dec.phase = .len ∧ t.dec.scratchLen = 1 ∧ t.dec.scratch.read 0 = some b0 ∧
      t.dec.scratch.read 1 = s.dec.scratch.read 1 ∧ t.dec.paddingExpected = none ∧
      t.session.batonIn = s.session.batonIn ∧ t.session.turnCount = s.session.turnCount ∧
      t.enc = s.enc ∧ t.dgram = s.dgram ∧ t.fault = none

/-- R123 (second item), R126: a byte for another stream while a frame is in progress or done, or a byte on a stream whose
baton was consumed, closes the session with MALFORMED, and no byte of the range is processed. -/
def Obligations.UnexpectedStreamCloses : Prop :=
  ∀ (s : State) (sid : StreamId) (fin bidi isLocal : Bool) (payload : List Byte) (c : StreamId) (crec : StreamRecord),
    Live s → ¬ HostDutyBroken s sid isLocal → payload ≠ [] → payload.length < 2 ^ 16 →
    s.session.streamBytesReceived.toNat + payload.length < 2 ^ 64 →
    s.session.controlStreamId = some c → s.record c = some crec → crec.finSent = false →
    ((s.dec.phase ≠ .idle ∧ s.session.activeRecv ≠ some sid) ∨
     (∃ rec, s.record sid = some rec ∧ rec.frameDone = true)) →
    exec (.deliverBytes sid fin bidi isLocal payload) s = .next { s with
      session := { s.session with
        state := .closed, closed := true, closeCode := some .malformed,
        streamBytesReceived := BitVec.ofNat 64 (s.session.streamBytesReceived.toNat + payload.length) }
      table := (s.knowStream sid bidi).table.put c { crec with finSent := true }
      log := s.log ++ [.sendClose c .malformed s.cfg.reasons.malformed]
      reply := some { outcome := .errFraming, bytes := [], fin := false } }

/-- R130: end-of-stream after bytes that raised no violation, before the baton was reached, closes the session with
MALFORMED; what the bytes wrote stays. -/
def Obligations.FinBeforeBatonCloses : Prop :=
  ∀ (s u : State) (sid : StreamId) (bidi isLocal : Bool) (payload : List Byte) (c : StreamId) (crec : StreamRecord)
    (completed : Bool),
    Live s → ¬ HostDutyBroken s sid isLocal → (∀ rec ∈ s.record sid, rec.frameDone = false) →
    (s.dec.phase = .idle ∨ s.session.activeRecv = some sid) → payload ≠ [] → payload.length < 2 ^ 16 →
    s.session.streamBytesReceived.toNat + payload.length < 2 ^ 64 →
    decodeBytes sid payload false
      (((s.knowStream sid bidi).onSession fun x => { x with
        streamBytesReceived := BitVec.ofNat 64 (s.session.streamBytesReceived.toNat + payload.length) }).associate
        sid) = .ok u completed →
    u.dec.phase ≠ .done → u.session.controlStreamId = some c → u.record c = some crec → crec.finSent = false →
    exec (.deliverBytes sid true bidi isLocal payload) s = .next { u with
      session := { u.session with state := .closed, closed := true, closeCode := some .malformed }
      table := u.table.put c { crec with finSent := true }
      log := u.log ++ [.sendClose c .malformed u.cfg.reasons.malformed]
      reply := some { outcome := .errFraming, bytes := [], fin := false } }

/-- R123 (third item): an empty range never fixes the receive stream. Without end-of-stream it only makes the stream
known; with it, it is FIN before baton on the receive stream of an unfinished frame, and otherwise records the end. -/
def Obligations.EmptyRangeRules : Prop :=
  ∀ (s : State) (sid : StreamId) (bidi isLocal : Bool), Live s → ¬ HostDutyBroken s sid isLocal →
    exec (.deliverBytes sid false bidi isLocal []) s =
      .next { s.knowStream sid bidi with reply := some { outcome := .ok, bytes := [], fin := false } } ∧
    (¬ (s.session.activeRecv = some sid ∧ s.dec.phase ≠ .done) →
      exec (.deliverBytes sid true bidi isLocal []) s = .next { s with
        table := (s.knowStream sid bidi).table.put sid
          { (s.record sid).getD (newRecord bidi false) with finReceived := true }
        reply := some { outcome := .ok, bytes := [], fin := false } }) ∧
    (∀ c crec, s.session.activeRecv = some sid → s.dec.phase ≠ .done →
      s.session.controlStreamId = some c → s.record c = some crec → crec.finSent = false →
      exec (.deliverBytes sid true bidi isLocal []) s = .next { s with
        session := { s.session with state := .closed, closed := true, closeCode := some .malformed }
        table := (s.knowStream sid bidi).table.put c { crec with finSent := true }
        log := s.log ++ [.sendClose c .malformed s.cfg.reasons.malformed]
        reply := some { outcome := .errFraming, bytes := [], fin := false } })

/-- R133, split invariance: a frame delivered in any consecutive non-empty ranges on one stream, from D_IDLE, has the
same outcome, state for state, as the frame delivered whole. -/
def Obligations.SplitInvariance : Prop :=
  ∀ (s : State) (sid : StreamId) (fin bidi isLocal : Bool) (pfx padding : List Byte) (b : Byte)
    (ranges : List (List Byte)),
    Live s → Coherent s → s.dec.phase = .idle → (∀ rec ∈ s.record sid, rec.frameDone = false) →
    IsFrame pfx padding → (∀ r ∈ ranges, r ≠ []) → ranges.flatten = pfx ++ padding ++ [b] →
    s.session.streamBytesReceived.toNat + (pfx ++ padding ++ [b]).length < 2 ^ 64 →
    deliverRanges sid fin bidi isLocal ranges s = exec (.deliverBytes sid fin bidi isLocal (pfx ++ padding ++ [b])) s

/-- R27, R188: a delivery that leaves the session in progress has either added nothing to turn_count and emitted nothing,
or counted exactly two turns, the peer's and this side's, and queued a frame. -/
def Obligations.DeliveryCountsTwoTurnsOrNone : Prop :=
  ∀ (s t : State) (sid : StreamId) (fin bidi isLocal : Bool) (payload : List Byte),
    Live s → exec (.deliverBytes sid fin bidi isLocal payload) s = .next t → Live t →
    (t.session.turnCount = s.session.turnCount ∧ t.log = s.log ∧ t.session.activeSend = s.session.activeSend) ∨
    (t.session.turnCount.toNat = s.session.turnCount.toNat + 2 ∧ s.session.activeSend = none ∧
      t.session.activeSend ≠ none ∧ s.log.length < t.log.length)

/-! ### REQUEST_SEND -/

/-- R151: with no frame queued, or an offer for another stream, or of 0 bytes, zero bytes are claimed and nothing
changes. -/
def Obligations.NothingToSend : Prop :=
  ∀ (s : State) (sid : StreamId) (m : BitVec 16), Live s →
    (s.session.activeSend = none ∨ s.session.activeSend ≠ some sid ∨ m = 0) →
    exec (.requestSend sid m) s = .next { s with reply := some { outcome := .ok, bytes := [], fin := false } }

/-- R152: the padding decision by the baton and the first offer, and that a decision once made is kept by every later
offer. -/
def Obligations.PaddingDecision : Prop :=
  (∀ m, 1 ≤ m → choosePadding 0 m = 0) ∧
  (∀ b : Byte, b ≠ 0 → choosePadding b 1 = 0x3F) ∧
  (∀ (b : Byte) (m : Nat), b ≠ 0 → 2 ≤ m → choosePadding b m = 0x3FFF) ∧
  (∀ (s t : State) (sid : StreamId) (m : BitVec 16) (b : Byte), Live s → s.session.activeSend = some sid → m ≠ 0 →
    s.session.batonOut = some b → exec (.requestSend sid m) s = .next t →
    (s.enc.paddingRequired = none → t.enc.paddingRequired = some (choosePadding b m.toNat)) ∧
    (∀ p, s.enc.paddingRequired = some p → t.enc.paddingRequired = some p))

/-- R153, R154: an offer that does not reach the frame's end writes exactly the next bytes of the frame that fit, and
only the encoder registers record it: prefix first, then padding. -/
def Obligations.PartialSendWritesTheNextBytes : Prop :=
  ∀ (s : State) (sid : StreamId) (m : BitVec 16) (b : Byte) (p : PadLen),
    Live s → EncoderCoherent s → s.session.activeSend = some sid → m ≠ 0 → s.session.batonOut = some b →
    p = s.enc.paddingRequired.getD (choosePadding b m.toNat) →
    s.enc.written + m.toNat < (frame p.toNat b).length →
    ∃ e : Encoder,
      exec (.requestSend sid m) s = .next { s with
        enc := e
        reply := some
          { outcome := .ok, bytes := ((frame p.toNat b).drop s.enc.written).take m.toNat, fin := false } } ∧
      e.paddingRequired = some p ∧ e.prefixSent = (varint p.toNat).length ∧
      e.prefixSent + e.paddingSent.toNat = s.enc.written + m.toNat

/-- R154, R156, R157, R132: an offer that reaches the frame's end writes the rest with fin 1, finishes the stream,
releases it, re-arms the decoder, and leaves SENT, or DONE where it was DONE. -/
def Obligations.FinalSendCompletesTheFrame : Prop :=
  ∀ (s : State) (sid : StreamId) (m : BitVec 16) (b : Byte) (p : PadLen) (rec : StreamRecord),
    Live s → EncoderCoherent s → s.session.activeSend = some sid → m ≠ 0 → s.session.batonOut = some b →
    p = s.enc.paddingRequired.getD (choosePadding b m.toNat) → s.record sid = some rec →
    (frame p.toNat b).length ≤ s.enc.written + m.toNat →
    exec (.requestSend sid m) s = .next { s with
      session := { s.session with
        activeSend := none, activeRecv := none, state := if s.session.state = .done then .done else .sent }
      dec := { s.dec with phase := .idle, scratchLen := 0, paddingExpected := none, paddingReceived := 0 }
      enc := { paddingRequired := some p, prefixSent := (varint p.toNat).length, paddingSent := p }
      table := s.table.put sid { rec with finSent := true }
      reply := some { outcome := .ok, bytes := (frame p.toNat b).drop s.enc.written, fin := true } }

/-- R152 to R157, R159: from an armed stream, any sequence of offers is answered, and the bytes written, put together,
are the first bytes of one frame, as many as were offered: the frame that the first non-empty offer decides. -/
def Obligations.OffersConcatenateToTheFrame : Prop :=
  ∀ (s : State) (sid : StreamId) (b : Byte) (offers : List (BitVec 16)),
    Live s → Coherent s → s.session.activeSend = some sid → s.session.batonOut = some b →
    s.enc.paddingRequired = none →
    ∃ t, offerSpace sid offers s =
        some ((frame (choosePadding b (((offers.find? (fun m => m != 0)).getD 1).toNat)).toNat b).take
          (offers.map (·.toNat)).sum, t) ∧
      (t.session.activeSend = none ↔
        (frame (choosePadding b (((offers.find? (fun m => m != 0)).getD 1).toNat)).toNat b).length ≤
          (offers.map (·.toNat)).sum)

/-! ### The turn check and the dispatcher -/

/-- R180: a zero baton ends the session with SUCCESS whatever turn_count and first_baton hold; a remotely-opened
bidirectional inbound stream whose send direction is open is finished first. -/
def Obligations.ZeroBatonClosesWithSuccess : Prop :=
  ∀ (s : State) (r c : StreamId) (rec crec : StreamRecord),
    s.session.batonIn = some 0 → s.session.activeRecv = some r → s.record r = some rec →
    s.session.controlStreamId = some c → c ≠ r → s.record c = some crec → crec.finSent = false →
    (rec.bidi = true ∧ rec.isLocal = false ∧ rec.finSent = false →
      turnCheck s = .next { s with
        session := { s.session with state := .closed, closed := true, closeCode := some .success }
        table := (s.table.put r { rec with finSent := true }).put c { crec with finSent := true }
        log := s.log ++ [.finStream r, .sendClose c .success s.cfg.reasons.success]
        reply := some { outcome := .ok, bytes := [], fin := false } }) ∧
    (¬ (rec.bidi = true ∧ rec.isLocal = false ∧ rec.finSent = false) →
      turnCheck s = .next { s with
        session := { s.session with state := .closed, closed := true, closeCode := some .success }
        table := s.table.put c { crec with finSent := true }
        log := s.log ++ [.sendClose c .success s.cfg.reasons.success]
        reply := some { outcome := .ok, bytes := [], fin := false } })

/-- R181: a baton other than 0 and other than `baton_out + 1` modulo 256, after the role's first turn, closes the session
with MALFORMED and ERR_SEQUENCE; no register of step 3 is written and no dispatch follows. -/
def Obligations.SequenceViolationCloses : Prop :=
  ∀ (s : State) (b prev first : Byte) (r c : StreamId) (crec : StreamRecord),
    s.session.batonIn = some b → s.session.activeRecv = some r → b ≠ 0 →
    s.session.firstBaton = some first → s.session.batonOut = some prev → b.toNat ≠ (prev.toNat + 1) % 256 →
    s.session.controlStreamId = some c → s.record c = some crec → crec.finSent = false →
    turnCheck s = .next { s with
      session := { s.session with state := .closed, closed := true, closeCode := some .malformed }
      table := s.table.put c { crec with finSent := true }
      log := s.log ++ [.sendClose c .malformed s.cfg.reasons.malformed]
      reply := some { outcome := .errSequence, bytes := [], fin := false } }

/-- R182 to R186, R240: an accepted baton (the role's first, or in sequence) is recorded, counts the peer's turn, decides
the next baton and state by the terminal, corruption and normal branches in that order, arms the datagram where
`b mod 7` is the role's identity, and is dispatched; at turn_count 2^64 - 1 the model fault COUNTER_OVERFLOW is raised
instead, with first_baton already recorded. -/
def Obligations.AcceptedTurnUpdates : Prop :=
  ∀ (s : State) (b : Byte) (r : StreamId) (n : Counter) (role : Role),
    s.session.batonIn = some b → s.session.activeRecv = some r → b ≠ 0 →
    s.session.turnsRequired = some n → s.session.role = some role →
    (s.session.firstBaton = none ∨ ∃ prev, s.session.batonOut = some prev ∧ b.toNat = (prev.toNat + 1) % 256) →
    (s.session.turnCount.toNat + 1 < 2 ^ 64 →
      turnCheck s = dispatchTurn (some r) { s with
        session := { s.session with
          firstBaton := some (s.session.firstBaton.getD b)
          turnCount := BitVec.ofNat 64 (s.session.turnCount.toNat + 1)
          batonOut := some (BitVec.ofNat 8
            (if n.toNat ≤ s.session.turnCount.toNat + 1 then 0
             else if n.toNat = 257 ∧ 4 ≤ s.session.turnCount.toNat + 1 then
               (if (b.toNat + 31) % 256 = 0 then 1 else (b.toNat + 31) % 256)
             else (b.toNat + 1) % 256))
          state := if n.toNat ≤ s.session.turnCount.toNat + 1 then .done else .sent }
        dgram := if b.toNat % 7 = role.ident then { s.dgram with nextValue := some b, ready := true } else s.dgram
        log := s.log ++ (if b.toNat % 7 = role.ident then [.datagramReady] else []) }) ∧
    (s.session.turnCount.toNat + 1 = 2 ^ 64 →
      turnCheck s = .next { s with
        session := { s.session with firstBaton := some (s.session.firstBaton.getD b) }
        fault := some .counterOverflow
        reply := none })

/-- R202: the dispatch routes, for both readings of BIDI_DISPATCH. -/
def Obligations.DispatchRoutes : Prop :=
  (∀ reading, selectRoute reading none = .newUni) ∧
  (∀ reading (rec : StreamRecord), rec.bidi = false → selectRoute reading (some rec) = .newBidi) ∧
  (∀ rec : StreamRecord, rec.bidi = true → rec.isLocal = false →
    selectRoute .asDocumented (some rec) = .newUni ∧ selectRoute .swapped (some rec) = .same) ∧
  (∀ rec : StreamRecord, rec.bidi = true → rec.isLocal = true →
    selectRoute .asDocumented (some rec) = .same ∧ selectRoute .swapped (some rec) = .newUni)

/-- R200, R203, R204: a dispatch to a new stream opens it, records it, heads it with its tag and the control stream id,
credits this side's turn, resets the encode scratch, arms the stream and only then asks for it to be marked active; at
turn_count 2^64 - 1 it raises COUNTER_OVERFLOW after the header and before the mark. -/
def Obligations.DispatchOpensAndArms : Prop :=
  ∀ (s : State) (r c a : StreamId) (rec : StreamRecord) (bidi : Bool),
    s.session.activeSend = none → s.record r = some rec → s.session.controlStreamId = some c →
    selectRoute s.cfg.bidiDispatch (some rec) = (if bidi then .newBidi else .newUni) → s.openAnswer = some a →
    (s.session.turnCount.toNat + 1 < 2 ^ 64 →
      dispatchTurn (some r) s = .next { s with
        session := { s.session with
          turnCount := BitVec.ofNat 64 (s.session.turnCount.toNat + 1), activeSend := some a }
        enc := { paddingRequired := none, prefixSent := 0, paddingSent := 0 }
        table := s.table.put a
          { bidi := bidi, isLocal := true, finSent := false, finReceived := false, frameDone := false }
        log := s.log ++
          [if bidi then .openBidi (some a) else .openUni (some a),
            .writeHeader a (varint (if bidi then s.cfg.tagBidi else s.cfg.tagUni).toNat ++ varint c.toNat),
            .markActive a s.cfg.sendPriority]
        reply := some { outcome := .ok, bytes := [], fin := false } }) ∧
    (s.session.turnCount.toNat + 1 = 2 ^ 64 →
      dispatchTurn (some r) s = .next { s with
        table := s.table.put a
          { bidi := bidi, isLocal := true, finSent := false, finReceived := false, frameDone := false }
        log := s.log ++
          [if bidi then .openBidi (some a) else .openUni (some a),
            .writeHeader a (varint (if bidi then s.cfg.tagBidi else s.cfg.tagUni).toNat ++ varint c.toNat)]
        fault := some .counterOverflow
        reply := none })

/-- R207: when the open fails the session closes with INSUFFICIENT_STREAM_CREDIT; no record, header or mark, and
turn_count, the encoder and active_send as they were. -/
def Obligations.DispatchOpenFailureCloses : Prop :=
  ∀ (s : State) (r c : StreamId) (rec crec : StreamRecord) (bidi : Bool),
    s.session.activeSend = none → s.record r = some rec →
    selectRoute s.cfg.bidiDispatch (some rec) = (if bidi then .newBidi else .newUni) → s.openAnswer = none →
    s.session.controlStreamId = some c → s.record c = some crec → crec.finSent = false →
    dispatchTurn (some r) s = .next { s with
      session := { s.session with
        state := .closed, closed := true, closeCode := some .insufficientStreamCredit }
      table := s.table.put c { crec with finSent := true }
      log := s.log ++
        [if bidi then .openBidi none else .openUni none,
          .sendClose c .insufficientStreamCredit s.cfg.reasons.insufficientStreamCredit]
      reply := some { outcome := .errNoCredit, bytes := [], fin := false } }

/-- R204, R205: the SAME route arms the inbound stream itself, with no open and no header, unless this side already
finished it, which is the model fault SEND_AFTER_FIN; at turn_count 2^64 - 1 it raises COUNTER_OVERFLOW, with nothing
armed and nothing marked. -/
def Obligations.DispatchOnTheSameStream : Prop :=
  ∀ (s : State) (r : StreamId) (rec : StreamRecord),
    s.session.activeSend = none → s.record r = some rec → selectRoute s.cfg.bidiDispatch (some rec) = .same →
    (rec.finSent = true →
      dispatchTurn (some r) s = .next { s with fault := some .sendAfterFin, reply := none }) ∧
    (rec.finSent = false → s.session.turnCount.toNat + 1 < 2 ^ 64 →
      dispatchTurn (some r) s = .next { s with
        session := { s.session with
          turnCount := BitVec.ofNat 64 (s.session.turnCount.toNat + 1), activeSend := some r }
        enc := { paddingRequired := none, prefixSent := 0, paddingSent := 0 }
        log := s.log ++ [.markActive r s.cfg.sendPriority]
        reply := some { outcome := .ok, bytes := [], fin := false } }) ∧
    (rec.finSent = false → s.session.turnCount.toNat + 1 = 2 ^ 64 →
      dispatchTurn (some r) s = .next { s with fault := some .counterOverflow, reply := none })

/-- R206: a dispatch while a frame is still queued raises TURN_OVERLAP and changes nothing else, before any route is
selected; with no frame queued a dispatch never raises it. -/
def Obligations.DispatchOverlapFaults : Prop :=
  ∀ (s : State) (inbound : Option StreamId),
    (s.session.activeSend ≠ none →
      dispatchTurn inbound s = .next { s with fault := some .turnOverlap, reply := none }) ∧
    (s.session.activeSend = none → s.fault = none →
      ∀ t, dispatchTurn inbound s = .next t → t.fault ≠ some .turnOverlap)

/-! ### Closing -/

/-- R223: IDLE_TIMEOUT closes a session in progress with code IDLE_TIMEOUT and answers ERR_TIMEOUT. -/
def Obligations.IdleTimeoutCloses : Prop :=
  ∀ (s : State) (c : StreamId) (crec : StreamRecord), Live s →
    s.session.controlStreamId = some c → s.record c = some crec → crec.finSent = false →
    exec .idleTimeout s = .next { s with
      session := { s.session with state := .closed, closed := true, closeCode := some .idleTimeout }
      table := s.table.put c { crec with finSent := true }
      log := s.log ++ [.sendClose c .idleTimeout s.cfg.reasons.idleTimeout]
      reply := some { outcome := .errTimeout, bytes := [], fin := false } }

/-- R222: NOTIFY_RESET of any stream closes a session in progress with ALL_STREAMS_RESET and answers ERR_RESET; on the
initiator, and only there, the connection is closed too, after the close message. -/
def Obligations.NotifyResetCloses : Prop :=
  ∀ (s : State) (sid c : StreamId) (crec : StreamRecord) (role : Role), Live s → s.session.role = some role →
    s.session.controlStreamId = some c → s.record c = some crec → crec.finSent = false →
    exec (.notifyReset sid) s = .next { s with
      session := { s.session with state := .closed, closed := true, closeCode := some .allStreamsReset }
      table := s.table.put c { crec with finSent := true }
      log := s.log ++
        (match role with
         | .responder => [.sendClose c .allStreamsReset s.cfg.reasons.allStreamsReset]
         | .initiator =>
            [.sendClose c .allStreamsReset s.cfg.reasons.allStreamsReset, .closeConnection .allStreamsReset])
      reply := some { outcome := .errReset, bytes := [], fin := false } }

/-- R220, R221: a close on a control stream that is already finished sends nothing and keeps the close code; the session
is closed all the same. -/
def Obligations.CloseIsIdempotent : Prop :=
  ∀ (s : State) (code : CloseCode) (o : OutcomeCode) (c : StreamId) (crec : StreamRecord),
    s.session.controlStreamId = some c → s.record c = some crec → crec.finSent = true →
    closeSession code o s = .next { s with
      session := { s.session with state := .closed, closed := true }
      reply := some { outcome := o, bytes := [], fin := false } }

/-- R221: a command emits at most one close message, only out of a session in progress that has sent none, and then the
session is closed with the code recorded. -/
def Obligations.AtMostOneCloseMessage : Prop :=
  ∀ (i : Instr) (s t : State), Coherent s → exec i s = .next t →
    closeMessages t.log = closeMessages s.log ∨
    (closeMessages t.log = closeMessages s.log + 1 ∧
      (Live s ∧ s.session.closeCode = none ∨ i.opcode = .accept ∧ s.session.state = .idle) ∧
      t.session.state = .closed ∧ t.session.closeCode ≠ none)

/-- R265: once closed, a session stays closed under every command until DEREGISTER releases a responder's, and keeps its
close code. -/
def Obligations.ClosedIsAbsorbing : Prop :=
  ∀ (i : Instr) (s t : State), s.session.state = .closed → exec i s = .next t →
    (t.session.state = .closed ∧ t.session.closeCode = s.session.closeCode ∧ t.log = s.log) ∨
    (i = .deregister ∧ s.session.role = some .responder ∧ t.session.state = .idle ∧ t.log = s.log)

/-! ### Datagrams -/

/-- R242: an armed block fills an offer of at least 2 bytes with one datagram of the drawn padding, disarms, and counts
it; with nothing armed, or room for fewer than 2 bytes, the request is declined. Nothing else changes. A counter that
would pass 2^64 - 1 raises COUNTER_OVERFLOW instead, the block disarmed and the counters before it written (R270). -/
def Obligations.RequestDatagramAnswers : Prop :=
  ∀ (s : State) (m pad : BitVec 16), Live s →
    (∀ (v : Byte) (dg : List Byte), s.dgram.ready = true → s.dgram.nextValue = some v → 2 ≤ m.toNat →
      dg = varint (pad.toNat % (pmax (min m.toNat 1536) + 1)) ++
        List.replicate (pad.toNat % (pmax (min m.toNat 1536) + 1)) 0x00 ++ [v] →
      dg.length ≤ min m.toNat 1536 ∧
      (s.dgram.sent.toNat + 1 < 2 ^ 64 → s.dgram.bytesSent.toNat + dg.length < 2 ^ 64 →
        exec (.requestDatagram m pad) s = .next { s with
          dgram := { s.dgram with
            ready := false
            sent := BitVec.ofNat 64 (s.dgram.sent.toNat + 1)
            bytesSent := BitVec.ofNat 64 (s.dgram.bytesSent.toNat + dg.length) }
          reply := some { outcome := .ok, bytes := dg, fin := false } }) ∧
      (s.dgram.sent.toNat + 1 < 2 ^ 64 → 2 ^ 64 ≤ s.dgram.bytesSent.toNat + dg.length →
        exec (.requestDatagram m pad) s = .next { s with
          dgram := { s.dgram with ready := false, sent := BitVec.ofNat 64 (s.dgram.sent.toNat + 1) }
          fault := some .counterOverflow
          reply := none }) ∧
      (s.dgram.sent.toNat + 1 = 2 ^ 64 →
        exec (.requestDatagram m pad) s = .next { s with
          dgram := { s.dgram with ready := false }
          fault := some .counterOverflow
          reply := none })) ∧
    (s.dgram.ready = false ∨ m.toNat < 2 →
      exec (.requestDatagram m pad) s =
        .next { s with reply := some { outcome := .ok, bytes := [], fin := false } })

/-- R243: `pmax(cap)` is the largest padding length whose datagram fits the cap, by the formulas of the rule; every
padding length up to it is produced by the draw of that value, and no draw produces a longer one. -/
def Obligations.PmaxIsTheLargestPadding : Prop :=
  (∀ cap : Nat, 2 ≤ cap → cap ≤ 1536 →
    (varint (pmax cap)).length + pmax cap + 1 ≤ cap ∧
    (∀ p : Nat, pmax cap < p → cap < (varint p).length + p + 1) ∧
    (cap ≤ 66 → pmax cap = min (cap - 2) 63) ∧ (67 ≤ cap → pmax cap = cap - 3) ∧ (cap = 1536 → pmax cap = 1533)) ∧
  (∀ (m pad : BitVec 16) (v : Byte),
    (pad.toNat ≤ pmax (dgramCap m) → dgramBytes m pad v = frame pad.toNat v) ∧
    ∃ p, p ≤ pmax (dgramCap m) ∧ dgramBytes m pad v = frame p v)

/-- R244: a datagram whose 1- or 2-byte prefix declares exactly its padding is recorded: its last byte, and the two
counters; padding content is not looked at, and nothing else changes. A counter that would pass 2^64 - 1 raises
COUNTER_OVERFLOW instead, the last byte and the counters before it written (R270). -/
def Obligations.WellFormedDatagramIsRecorded : Prop :=
  ∀ (s : State) (pfx padding : List Byte) (v : Byte), Live s → IsFrame pfx padding →
    (s.dgram.received.toNat + 1 < 2 ^ 64 →
      s.dgram.bytesReceived.toNat + (pfx ++ padding ++ [v]).length < 2 ^ 64 →
      exec (.deliverDatagram (pfx ++ padding ++ [v])) s = .next { s with
        dgram := { s.dgram with
          lastValue := some v
          received := BitVec.ofNat 64 (s.dgram.received.toNat + 1)
          bytesReceived := BitVec.ofNat 64 (s.dgram.bytesReceived.toNat + (pfx ++ padding ++ [v]).length) }
        reply := some { outcome := .ok, bytes := [], fin := false } }) ∧
    (s.dgram.received.toNat + 1 < 2 ^ 64 →
      2 ^ 64 ≤ s.dgram.bytesReceived.toNat + (pfx ++ padding ++ [v]).length →
      exec (.deliverDatagram (pfx ++ padding ++ [v])) s = .next { s with
        dgram := { s.dgram with
          lastValue := some v, received := BitVec.ofNat 64 (s.dgram.received.toNat + 1) }
        fault := some .counterOverflow
        reply := none }) ∧
    (s.dgram.received.toNat + 1 = 2 ^ 64 →
      exec (.deliverDatagram (pfx ++ padding ++ [v])) s = .next { s with
        dgram := { s.dgram with lastValue := some v }
        fault := some .counterOverflow
        reply := none })

/-- R244: a datagram that is not a prefix with exactly the bytes it declares is discarded silently: the reply is OK and
nothing else changes. -/
def Obligations.MalformedDatagramIsDiscarded : Prop :=
  ∀ (s : State) (bytes : List Byte), Live s → bytes.length < 2 ^ 16 →
    (∀ (pfx padding : List Byte) (v : Byte), IsFrame pfx padding → bytes ≠ pfx ++ padding ++ [v]) →
    exec (.deliverDatagram bytes) s = .next { s with reply := some { outcome := .ok, bytes := [], fin := false } }

/-- R106, R242, R244: every datagram the block produces is one its receiver records, with the value sent. -/
def Obligations.SentDatagramIsAccepted : Prop :=
  ∀ (m pad : BitVec 16) (v : Byte), 2 ≤ m.toNat →
    dgramBaton (dgramBytes m pad v) = some v ∧ (dgramBytes m pad v).length ≤ 1536

/-- R245: datagram commands touch no stream-based state, and the stream-based state after any run depends only on the
stream commands: leaving every datagram command out of a run that ends with no model fault gives a run that ends in the
same stream-based state. -/
def Obligations.DatagramIsolation : Prop :=
  (∀ (i : Instr) (s t : State), isDatagramCommand i = true → exec i s = .next t → t.fault = none → StreamAgree s t) ∧
  (∀ (cs : List Command) (s t : State), runCommands cs s = .next t → t.fault = none →
    ∃ t', runCommands (cs.filter fun c => !isDatagramCommand c.1) s = .next t' ∧ StreamAgree t t')

/-! ### Invariants -/

/-- R290, R48: after block reset every register of the spec is at its block-reset value, and BIDI_DISPATCH at the
default of R9. That the inbox, the open answer and the last reply, the
model's own fields, hold nothing is the model's choice (log entries 1 to 3). -/
def Obligations.BlockResetValues : Prop :=
  State.reset.session.state = .idle ∧
  State.reset.session.role = none ∧ State.reset.session.batonOut = none ∧ State.reset.session.batonIn = none ∧
  State.reset.session.firstBaton = none ∧ State.reset.session.turnCount = 0 ∧
  State.reset.session.turnsRequired = none ∧ State.reset.session.controlStreamId = none ∧
  State.reset.session.activeSend = none ∧ State.reset.session.activeRecv = none ∧
  State.reset.session.ready = false ∧ State.reset.session.closed = false ∧ State.reset.session.closeCode = none ∧
  State.reset.session.streamBytesReceived = 0 ∧
  State.reset.dec.phase = .idle ∧ (∀ a, State.reset.dec.scratch.read a = none) ∧ State.reset.dec.scratchLen = 0 ∧
  State.reset.dec.paddingExpected = none ∧ State.reset.dec.paddingReceived = 0 ∧
  State.reset.enc.paddingRequired = none ∧ State.reset.enc.prefixSent = 0 ∧ State.reset.enc.paddingSent = 0 ∧
  State.reset.table = [] ∧
  State.reset.dgram.ready = false ∧ State.reset.dgram.nextValue = none ∧ State.reset.dgram.sent = 0 ∧
  State.reset.dgram.bytesSent = 0 ∧ State.reset.dgram.received = 0 ∧ State.reset.dgram.bytesReceived = 0 ∧
  State.reset.dgram.lastValue = none ∧
  State.reset.fault = none ∧ State.reset.log = [] ∧ State.reset.cfg.bidiDispatch = .asDocumented ∧
  State.reset.inbox = [] ∧ State.reset.openAnswer = none ∧ State.reset.reply = none

/-- The state after block reset meets the invariant, and R158's last clause as `SendCoherent` says it. -/
def Obligations.BlockResetIsCoherent : Prop := Coherent State.reset ∧ SendCoherent State.reset

/-- R22, R33, R134, R158, R221: the invariant holds after every step from a state in which it holds, the transport keeping
the contract of R201; with it, so does R158's last clause in every session state. Where DEREGISTER of an initiator
session has emptied the table, R134's and R158's last clauses are left out (log entry 12). -/
def Obligations.StepKeepsCoherent : Prop :=
  ∀ s t : State, Coherent s → ContractKept s → step s = .next t → Coherent t ∧ (SendCoherent s → SendCoherent t)

/-- R11, R270: from a state that meets the invariant, no command ever reads a `NONE` register as a number, a stream not in
`T`, or a scratch byte that does not exist: every command has a next state unless the block is halted. -/
def Obligations.CoherentBlockNeverSticks : Prop :=
  ∀ (i : Instr) (s : State), Coherent s → s.fault = none → ∃ t, exec i s = .next t

/-- R40, R61: every step keeps the stream table and the decode scratch in canonical form, from any state whatever. -/
def Obligations.StepKeepsCanonicalForm : Prop :=
  ∀ s t : State, Canonical s → step s = .next t → Canonical t

/-- R47: the output log only grows: a command appends zero or more events. -/
def Obligations.OutputLogOnlyGrows : Prop :=
  ∀ (i : Instr) (s t : State), exec i s = .next t → ∃ events, t.log = s.log ++ events

/-- R28, R44: no command writes the configuration inputs; turns_required and the role and control stream, once a session
is created, are changed by no command but DEREGISTER of a responder session. That no command writes the inbox or the
open answer is the model's choice: both fields are the model's own (log entries 1 and 2). -/
def Obligations.ReadOnlyRegisters : Prop :=
  ∀ (i : Instr) (s t : State), exec i s = .next t →
    t.cfg = s.cfg ∧ t.inbox = s.inbox ∧ t.openAnswer = s.openAnswer ∧
    (s.session.state ≠ .idle → ¬ (i = .deregister ∧ s.session.role = some .responder) →
      t.session.turnsRequired = s.session.turnsRequired ∧ t.session.role = s.session.role ∧
        t.session.controlStreamId = s.session.controlStreamId)

/-- R153: while a frame stays queued, the baton it carries does not change. -/
def Obligations.QueuedBatonIsStable : Prop :=
  ∀ (i : Instr) (s t : State), inSession s.session.state = true → s.session.activeSend ≠ none →
    exec i s = .next t → t.fault = none → t.session.activeSend = s.session.activeSend →
    t.session.batonOut = s.session.batonOut
end

