-- ==== Sys2Proof/Laws/Decode.lean ====
section
/-! SUPPORT. The descriptor's fields and its word determine each other; opcodes and their values; the 64-bit values of
stream ids and of `NONE`. -/

namespace Sys2Proof

/-- Reading the fields of the word written from them gives them back (R80). -/
@[simp] theorem fieldsOf_wordOf (f : Fields) : fieldsOf (wordOf f) = f := by
  obtain ⟨opc, fin, bidi, isLocal, rsv0, len, sid, arg, rsv1⟩ := f
  simp only [fieldsOf, wordOf, Fields.mk.injEq]
  refine ⟨?_, ?_, ?_, ?_, ?_, ?_, ?_, ?_, ?_⟩ <;>
  · ext i hi
    simp only [BitVec.getElem_extractLsb', BitVec.getLsbD_append]
    simp only [← BitVec.getLsbD_eq_getElem]
    grind

/-- Writing the word from the fields read from it gives it back (R80). -/
@[simp] theorem wordOf_fieldsOf (w : Descriptor) : wordOf (fieldsOf w) = w := by
  apply BitVec.eq_of_getLsbD_eq
  intro i hi
  simp only [fieldsOf, wordOf, BitVec.getLsbD_append, BitVec.getLsbD_extractLsb']
  grind

/-! The 64-bit values of stream ids and of `NONE` (R62, R82). -/

@[simp] theorem streamIdBits_none : streamIdBits none = 0xFFFFFFFFFFFFFFFF := rfl
@[simp] theorem streamIdBits_some (sid : StreamId) : streamIdBits (some sid) = sid.setWidth 64 := rfl

/-- The id is read back from its 64-bit value. -/
theorem setWidth_streamIdBits (sid : StreamId) : (streamIdBits (some sid)).setWidth 62 = sid :=
  BitVec.setWidth_setWidth_of_le sid (by decide)

/-- `NONE` is the value of no stream id. -/
theorem streamIdBits_some_ne_none (sid : StreamId) : streamIdBits (some sid) ≠ streamIdBits none := by
  intro h
  have := congrArg BitVec.toNat h
  simp at this
  omega

/-- A stream-id register's contents are known from its 64 bits. -/
theorem streamIdBits_inj {x y : Option StreamId} (h : streamIdBits x = streamIdBits y) : x = y := by
  cases x with
  | none => cases y with
    | none => rfl
    | some b => exact absurd h.symm (streamIdBits_some_ne_none b)
  | some a => cases y with
    | none => exact absurd h (streamIdBits_some_ne_none a)
    | some b => rw [← setWidth_streamIdBits a, h, setWidth_streamIdBits]

/-- No SID field the decoder accepts holds `NONE`. -/
theorem sid_ne_noneStreamId {u : Usage} {f : Fields} (hu : u.sid = true) (h : sidFits u f = true) :
    f.sid ≠ noneStreamId := by
  intro he
  simp [sidFits, hu, he, noneStreamId] at h

/-- An opcode's value names the opcode (R84). -/
@[simp] theorem opcodeOf_value (op : Opcode) : opcodeOf op.value = some op := by cases op <;> rfl

/-- A value that names an opcode is that opcode's value (R84). -/
theorem value_of_opcodeOf {opc : BitVec 8} {op : Opcode} (h : opcodeOf opc = some op) : op.value = opc := by
  revert op
  revert opc
  decide

end Sys2Proof
end

