-- ==== Sys2Proof/Laws/Maps.lean ====
section
/-! SUPPORT. The finite maps behind the decode scratch and the stream table: reading after writing, and the canonical
form that every write keeps. -/

namespace Sys2Proof.Machine

variable {β : Type}

@[simp] theorem lookupKey_nil (a : Nat) : lookupKey ([] : List (Nat × β)) a = none := rfl

@[simp] theorem storeKey_nil (a : Nat) (v : β) : storeKey ([] : List (Nat × β)) a v = [(a, v)] := rfl

theorem lookupKey_cons (k : Nat) (w : β) (m : List (Nat × β)) (a : Nat) :
    lookupKey ((k, w) :: m) a = if a = k then some w else lookupKey m a := rfl

/-- Reading after a write: the written key gives the written value, every other key what it gave before. -/
theorem lookupKey_storeKey (m : List (Nat × β)) (a b : Nat) (v : β) :
    lookupKey (storeKey m a v) b = if b = a then some v else lookupKey m b := by
  induction m with
  | nil => simp [lookupKey]
  | cons p m ih =>
    obtain ⟨k, w⟩ := p
    simp only [storeKey]
    split
    · simp only [lookupKey_cons]
    · split
      · simp only [lookupKey_cons]
        grind
      · simp only [lookupKey_cons, ih]
        grind

@[simp] theorem lookupKey_storeKey_same (m : List (Nat × β)) (a : Nat) (v : β) :
    lookupKey (storeKey m a v) a = some v := by simp [lookupKey_storeKey]

theorem lookupKey_storeKey_ne (m : List (Nat × β)) {a b : Nat} (v : β) (h : b ≠ a) :
    lookupKey (storeKey m a v) b = lookupKey m b := by simp [lookupKey_storeKey, h]

/-- The pairs of a written map: the written one, and pairs that were there. -/
theorem mem_storeKey {m : List (Nat × β)} {a : Nat} {v : β} {c : Nat × β} (h : c ∈ storeKey m a v) :
    c = (a, v) ∨ c ∈ m := by
  induction m with
  | nil => simpa using h
  | cons p m ih =>
    obtain ⟨k, w⟩ := p
    simp only [storeKey] at h
    split at h
    · simpa using h
    · split at h
      · rcases List.mem_cons.1 h with h | h
        · exact .inl h
        · exact .inr (List.mem_cons_of_mem _ h)
      · rcases List.mem_cons.1 h with h | h
        · exact .inr (h ▸ List.mem_cons_self)
        · exact (ih h).imp_right (List.mem_cons_of_mem _)

/-- A write keeps the keys strictly rising. -/
theorem storeKey_keysRise {m : List (Nat × β)} (hm : KeysRise m) (a : Nat) (v : β) : KeysRise (storeKey m a v) := by
  induction m with
  | nil => simp [KeysRise]
  | cons p m ih =>
    obtain ⟨k, w⟩ := p
    obtain ⟨hk, ht⟩ := List.pairwise_cons.1 hm
    simp only [storeKey]
    split
    · rename_i hak
      refine List.pairwise_cons.2 ⟨fun c hc => ?_, hm⟩
      rcases List.mem_cons.1 hc with rfl | hc
      · exact hak
      · exact Nat.lt_trans hak (hk c hc)
    · split
      · rename_i hak
        subst hak
        exact List.pairwise_cons.2 ⟨hk, ht⟩
      · rename_i hlt hne
        refine List.pairwise_cons.2 ⟨fun c hc => ?_, ih ht⟩
        rcases mem_storeKey hc with rfl | hc
        · show k < a
          omega
        · exact hk c hc

/-! The decode scratch. -/

@[simp] theorem Memory.read_nil (a : Nat) : Memory.read [] a = none := rfl

/-- What a store into the scratch does: only the addresses 0 and 1 take one, the stored byte reads back, and every
other address reads as before. -/
theorem Memory.write_spec {m m' : Memory} {a : Nat} {v : Byte} (h : m.write a v = some m') :
    a < Config.scratchBytes ∧ m'.read a = some v ∧ (∀ b, b ≠ a → m'.read b = m.read b) ∧ (m.wf → m'.wf) := by
  simp only [Memory.write] at h
  split at h
  · rename_i ha
    obtain rfl := Option.some.inj h
    refine ⟨ha, lookupKey_storeKey_same _ _ _, fun b hb => lookupKey_storeKey_ne _ _ hb, fun hm => ?_⟩
    refine ⟨storeKey_keysRise hm.1 a v, fun c hc => ?_⟩
    rcases mem_storeKey hc with rfl | hc
    · exact ha
    · exact hm.2 c hc
  · cases h

theorem Memory.write_of_lt {m : Memory} {a : Nat} (h : a < Config.scratchBytes) (v : Byte) :
    m.write a v = some (storeKey m a v) := by simp [Memory.write, h]

/-! The stream table. -/

@[simp] theorem StreamTable.find_nil (sid : StreamId) : StreamTable.find [] sid = none := rfl

/-- Reading the table after a record is written. -/
theorem StreamTable.find_put (t : StreamTable) (a b : StreamId) (rec : StreamRecord) :
    (t.put a rec).find b = if b = a then some rec else t.find b := by
  simp only [StreamTable.find, StreamTable.put, lookupKey_storeKey]
  by_cases h : b = a
  · simp [h]
  · have : b.toNat ≠ a.toNat := fun e => h (BitVec.eq_of_toNat_eq e)
    simp [h, this]

@[simp] theorem StreamTable.find_put_same (t : StreamTable) (a : StreamId) (rec : StreamRecord) :
    (t.put a rec).find a = some rec := by simp [StreamTable.find_put]

theorem StreamTable.find_put_ne (t : StreamTable) {a b : StreamId} (rec : StreamRecord) (h : b ≠ a) :
    (t.put a rec).find b = t.find b := by simp [StreamTable.find_put, h]

theorem StreamTable.wf_nil : StreamTable.wf [] := ⟨List.Pairwise.nil, fun _ h => absurd h List.not_mem_nil⟩

/-- Writing a record keeps the table's canonical form. -/
theorem StreamTable.put_wf {t : StreamTable} (h : t.wf) (sid : StreamId) (rec : StreamRecord) : (t.put sid rec).wf := by
  refine ⟨storeKey_keysRise h.1 _ _, fun c hc => ?_⟩
  rcases mem_storeKey hc with rfl | hc
  · exact sid.isLt
  · exact h.2 c hc

end Sys2Proof.Machine
end

