-- ==== Sys2Proof/Laws/State.lean ====
section
/-! SUPPORT. What each named update of the state does to each field of the state, one lemma per field per update. -/

namespace Sys2Proof.Machine

/-! `State.reset`: what it says of the configuration inputs (R9). -/

@[simp] theorem State.reset_cfg : State.reset.cfg = Config.params := rfl
@[simp] theorem Config.params_bidiDispatch : Config.params.bidiDispatch = .asDocumented := rfl
@[simp] theorem Config.params_turnsRequired : Config.params.turnsRequired = Config.openParams.turnsRequired := rfl
@[simp] theorem Config.params_tagUni : Config.params.tagUni = Config.openParams.tagUni := rfl
@[simp] theorem Config.params_tagBidi : Config.params.tagBidi = Config.openParams.tagBidi := rfl
@[simp] theorem Config.params_sendPriority : Config.params.sendPriority = Config.openParams.sendPriority := rfl
@[simp] theorem Config.params_reasons : Config.params.reasons = Config.openParams.reasons := rfl

/-! The stream-id registers as 64-bit values (R82). -/

@[simp] theorem Session.controlStreamIdBits_eq (x : Session) :
    x.controlStreamIdBits = streamIdBits x.controlStreamId := rfl
@[simp] theorem Session.activeSendBits_eq (x : Session) : x.activeSendBits = streamIdBits x.activeSend := rfl
@[simp] theorem Session.activeRecvBits_eq (x : Session) : x.activeRecvBits = streamIdBits x.activeRecv := rfl

/-! `State.onSession` -/

@[simp] theorem State.onSession_session (s : State) (f : Session → Session) :
    (s.onSession f).session = f s.session := rfl
@[simp] theorem State.onSession_dec (s : State) (f : Session → Session) : (s.onSession f).dec = s.dec := rfl
@[simp] theorem State.onSession_enc (s : State) (f : Session → Session) : (s.onSession f).enc = s.enc := rfl
@[simp] theorem State.onSession_table (s : State) (f : Session → Session) : (s.onSession f).table = s.table := rfl
@[simp] theorem State.onSession_dgram (s : State) (f : Session → Session) : (s.onSession f).dgram = s.dgram := rfl
@[simp] theorem State.onSession_fault (s : State) (f : Session → Session) : (s.onSession f).fault = s.fault := rfl
@[simp] theorem State.onSession_log (s : State) (f : Session → Session) : (s.onSession f).log = s.log := rfl
@[simp] theorem State.onSession_reply (s : State) (f : Session → Session) : (s.onSession f).reply = s.reply := rfl
@[simp] theorem State.onSession_inbox (s : State) (f : Session → Session) : (s.onSession f).inbox = s.inbox := rfl
@[simp] theorem State.onSession_openAnswer (s : State) (f : Session → Session) :
    (s.onSession f).openAnswer = s.openAnswer := rfl
@[simp] theorem State.onSession_cfg (s : State) (f : Session → Session) : (s.onSession f).cfg = s.cfg := rfl

/-! `State.onDec` -/

@[simp] theorem State.onDec_session (s : State) (f : Decoder → Decoder) : (s.onDec f).session = s.session := rfl
@[simp] theorem State.onDec_dec (s : State) (f : Decoder → Decoder) : (s.onDec f).dec = f s.dec := rfl
@[simp] theorem State.onDec_enc (s : State) (f : Decoder → Decoder) : (s.onDec f).enc = s.enc := rfl
@[simp] theorem State.onDec_table (s : State) (f : Decoder → Decoder) : (s.onDec f).table = s.table := rfl
@[simp] theorem State.onDec_dgram (s : State) (f : Decoder → Decoder) : (s.onDec f).dgram = s.dgram := rfl
@[simp] theorem State.onDec_fault (s : State) (f : Decoder → Decoder) : (s.onDec f).fault = s.fault := rfl
@[simp] theorem State.onDec_log (s : State) (f : Decoder → Decoder) : (s.onDec f).log = s.log := rfl
@[simp] theorem State.onDec_reply (s : State) (f : Decoder → Decoder) : (s.onDec f).reply = s.reply := rfl
@[simp] theorem State.onDec_inbox (s : State) (f : Decoder → Decoder) : (s.onDec f).inbox = s.inbox := rfl
@[simp] theorem State.onDec_openAnswer (s : State) (f : Decoder → Decoder) :
    (s.onDec f).openAnswer = s.openAnswer := rfl
@[simp] theorem State.onDec_cfg (s : State) (f : Decoder → Decoder) : (s.onDec f).cfg = s.cfg := rfl

/-! `State.onEnc` -/

@[simp] theorem State.onEnc_session (s : State) (f : Encoder → Encoder) : (s.onEnc f).session = s.session := rfl
@[simp] theorem State.onEnc_dec (s : State) (f : Encoder → Encoder) : (s.onEnc f).dec = s.dec := rfl
@[simp] theorem State.onEnc_enc (s : State) (f : Encoder → Encoder) : (s.onEnc f).enc = f s.enc := rfl
@[simp] theorem State.onEnc_table (s : State) (f : Encoder → Encoder) : (s.onEnc f).table = s.table := rfl
@[simp] theorem State.onEnc_dgram (s : State) (f : Encoder → Encoder) : (s.onEnc f).dgram = s.dgram := rfl
@[simp] theorem State.onEnc_fault (s : State) (f : Encoder → Encoder) : (s.onEnc f).fault = s.fault := rfl
@[simp] theorem State.onEnc_log (s : State) (f : Encoder → Encoder) : (s.onEnc f).log = s.log := rfl
@[simp] theorem State.onEnc_reply (s : State) (f : Encoder → Encoder) : (s.onEnc f).reply = s.reply := rfl
@[simp] theorem State.onEnc_inbox (s : State) (f : Encoder → Encoder) : (s.onEnc f).inbox = s.inbox := rfl
@[simp] theorem State.onEnc_openAnswer (s : State) (f : Encoder → Encoder) :
    (s.onEnc f).openAnswer = s.openAnswer := rfl
@[simp] theorem State.onEnc_cfg (s : State) (f : Encoder → Encoder) : (s.onEnc f).cfg = s.cfg := rfl

/-! `State.onDgram` -/

@[simp] theorem State.onDgram_session (s : State) (f : Datagram → Datagram) : (s.onDgram f).session = s.session := rfl
@[simp] theorem State.onDgram_dec (s : State) (f : Datagram → Datagram) : (s.onDgram f).dec = s.dec := rfl
@[simp] theorem State.onDgram_enc (s : State) (f : Datagram → Datagram) : (s.onDgram f).enc = s.enc := rfl
@[simp] theorem State.onDgram_table (s : State) (f : Datagram → Datagram) : (s.onDgram f).table = s.table := rfl
@[simp] theorem State.onDgram_dgram (s : State) (f : Datagram → Datagram) : (s.onDgram f).dgram = f s.dgram := rfl
@[simp] theorem State.onDgram_fault (s : State) (f : Datagram → Datagram) : (s.onDgram f).fault = s.fault := rfl
@[simp] theorem State.onDgram_log (s : State) (f : Datagram → Datagram) : (s.onDgram f).log = s.log := rfl
@[simp] theorem State.onDgram_reply (s : State) (f : Datagram → Datagram) : (s.onDgram f).reply = s.reply := rfl
@[simp] theorem State.onDgram_inbox (s : State) (f : Datagram → Datagram) : (s.onDgram f).inbox = s.inbox := rfl
@[simp] theorem State.onDgram_openAnswer (s : State) (f : Datagram → Datagram) :
    (s.onDgram f).openAnswer = s.openAnswer := rfl
@[simp] theorem State.onDgram_cfg (s : State) (f : Datagram → Datagram) : (s.onDgram f).cfg = s.cfg := rfl

/-! `State.putRecord` -/

@[simp] theorem State.putRecord_session (s : State) (sid : StreamId) (rec : StreamRecord) :
    (s.putRecord sid rec).session = s.session := rfl
@[simp] theorem State.putRecord_dec (s : State) (sid : StreamId) (rec : StreamRecord) :
    (s.putRecord sid rec).dec = s.dec := rfl
@[simp] theorem State.putRecord_enc (s : State) (sid : StreamId) (rec : StreamRecord) :
    (s.putRecord sid rec).enc = s.enc := rfl
@[simp] theorem State.putRecord_table (s : State) (sid : StreamId) (rec : StreamRecord) :
    (s.putRecord sid rec).table = s.table.put sid rec := rfl
@[simp] theorem State.putRecord_dgram (s : State) (sid : StreamId) (rec : StreamRecord) :
    (s.putRecord sid rec).dgram = s.dgram := rfl
@[simp] theorem State.putRecord_fault (s : State) (sid : StreamId) (rec : StreamRecord) :
    (s.putRecord sid rec).fault = s.fault := rfl
@[simp] theorem State.putRecord_log (s : State) (sid : StreamId) (rec : StreamRecord) :
    (s.putRecord sid rec).log = s.log := rfl
@[simp] theorem State.putRecord_reply (s : State) (sid : StreamId) (rec : StreamRecord) :
    (s.putRecord sid rec).reply = s.reply := rfl
@[simp] theorem State.putRecord_inbox (s : State) (sid : StreamId) (rec : StreamRecord) :
    (s.putRecord sid rec).inbox = s.inbox := rfl
@[simp] theorem State.putRecord_openAnswer (s : State) (sid : StreamId) (rec : StreamRecord) :
    (s.putRecord sid rec).openAnswer = s.openAnswer := rfl
@[simp] theorem State.putRecord_cfg (s : State) (sid : StreamId) (rec : StreamRecord) :
    (s.putRecord sid rec).cfg = s.cfg := rfl

/-! `State.emit` -/

@[simp] theorem State.emit_session (s : State) (e : Event) : (s.emit e).session = s.session := rfl
@[simp] theorem State.emit_dec (s : State) (e : Event) : (s.emit e).dec = s.dec := rfl
@[simp] theorem State.emit_enc (s : State) (e : Event) : (s.emit e).enc = s.enc := rfl
@[simp] theorem State.emit_table (s : State) (e : Event) : (s.emit e).table = s.table := rfl
@[simp] theorem State.emit_dgram (s : State) (e : Event) : (s.emit e).dgram = s.dgram := rfl
@[simp] theorem State.emit_fault (s : State) (e : Event) : (s.emit e).fault = s.fault := rfl
@[simp] theorem State.emit_log (s : State) (e : Event) : (s.emit e).log = s.log ++ [e] := rfl
@[simp] theorem State.emit_reply (s : State) (e : Event) : (s.emit e).reply = s.reply := rfl
@[simp] theorem State.emit_inbox (s : State) (e : Event) : (s.emit e).inbox = s.inbox := rfl
@[simp] theorem State.emit_openAnswer (s : State) (e : Event) : (s.emit e).openAnswer = s.openAnswer := rfl
@[simp] theorem State.emit_cfg (s : State) (e : Event) : (s.emit e).cfg = s.cfg := rfl

/-! `State.replied` -/

@[simp] theorem State.replied_session (s : State) (o : OutcomeCode) (b : List Byte) (fin : Bool) :
    (s.replied o b fin).session = s.session := rfl
@[simp] theorem State.replied_dec (s : State) (o : OutcomeCode) (b : List Byte) (fin : Bool) :
    (s.replied o b fin).dec = s.dec := rfl
@[simp] theorem State.replied_enc (s : State) (o : OutcomeCode) (b : List Byte) (fin : Bool) :
    (s.replied o b fin).enc = s.enc := rfl
@[simp] theorem State.replied_table (s : State) (o : OutcomeCode) (b : List Byte) (fin : Bool) :
    (s.replied o b fin).table = s.table := rfl
@[simp] theorem State.replied_dgram (s : State) (o : OutcomeCode) (b : List Byte) (fin : Bool) :
    (s.replied o b fin).dgram = s.dgram := rfl
@[simp] theorem State.replied_fault (s : State) (o : OutcomeCode) (b : List Byte) (fin : Bool) :
    (s.replied o b fin).fault = s.fault := rfl
@[simp] theorem State.replied_log (s : State) (o : OutcomeCode) (b : List Byte) (fin : Bool) :
    (s.replied o b fin).log = s.log := rfl
@[simp] theorem State.replied_reply (s : State) (o : OutcomeCode) (b : List Byte) (fin : Bool) :
    (s.replied o b fin).reply = some { outcome := o, bytes := b, fin := fin } := rfl
@[simp] theorem State.replied_inbox (s : State) (o : OutcomeCode) (b : List Byte) (fin : Bool) :
    (s.replied o b fin).inbox = s.inbox := rfl
@[simp] theorem State.replied_openAnswer (s : State) (o : OutcomeCode) (b : List Byte) (fin : Bool) :
    (s.replied o b fin).openAnswer = s.openAnswer := rfl
@[simp] theorem State.replied_cfg (s : State) (o : OutcomeCode) (b : List Byte) (fin : Bool) :
    (s.replied o b fin).cfg = s.cfg := rfl

/-! `State.markClosed` -/

@[simp] theorem State.markClosed_session (s : State) :
    s.markClosed.session = { s.session with state := .closed, closed := true } := rfl
@[simp] theorem State.markClosed_dec (s : State) : s.markClosed.dec = s.dec := rfl
@[simp] theorem State.markClosed_enc (s : State) : s.markClosed.enc = s.enc := rfl
@[simp] theorem State.markClosed_table (s : State) : s.markClosed.table = s.table := rfl
@[simp] theorem State.markClosed_dgram (s : State) : s.markClosed.dgram = s.dgram := rfl
@[simp] theorem State.markClosed_fault (s : State) : s.markClosed.fault = s.fault := rfl
@[simp] theorem State.markClosed_log (s : State) : s.markClosed.log = s.log := rfl
@[simp] theorem State.markClosed_reply (s : State) : s.markClosed.reply = s.reply := rfl
@[simp] theorem State.markClosed_inbox (s : State) : s.markClosed.inbox = s.inbox := rfl
@[simp] theorem State.markClosed_openAnswer (s : State) : s.markClosed.openAnswer = s.openAnswer := rfl
@[simp] theorem State.markClosed_cfg (s : State) : s.markClosed.cfg = s.cfg := rfl

/-! `State.clearRegisters` -/

@[simp] theorem State.clearRegisters_session (s : State) : s.clearRegisters.session = .reset := rfl
@[simp] theorem State.clearRegisters_dec (s : State) : s.clearRegisters.dec = .reset := rfl
@[simp] theorem State.clearRegisters_enc (s : State) : s.clearRegisters.enc = .reset := rfl
@[simp] theorem State.clearRegisters_table (s : State) : s.clearRegisters.table = [] := rfl
@[simp] theorem State.clearRegisters_dgram (s : State) : s.clearRegisters.dgram = .reset := rfl
@[simp] theorem State.clearRegisters_fault (s : State) : s.clearRegisters.fault = s.fault := rfl
@[simp] theorem State.clearRegisters_log (s : State) : s.clearRegisters.log = s.log := rfl
@[simp] theorem State.clearRegisters_reply (s : State) : s.clearRegisters.reply = s.reply := rfl
@[simp] theorem State.clearRegisters_inbox (s : State) : s.clearRegisters.inbox = s.inbox := rfl
@[simp] theorem State.clearRegisters_openAnswer (s : State) : s.clearRegisters.openAnswer = s.openAnswer := rfl
@[simp] theorem State.clearRegisters_cfg (s : State) : s.clearRegisters.cfg = s.cfg := rfl

/-! `State.rearm` -/

@[simp] theorem State.rearm_session (s : State) : s.rearm.session = { s.session with activeRecv := none } := rfl
@[simp] theorem State.rearm_dec (s : State) :
    s.rearm.dec = { s.dec with phase := .idle, scratchLen := 0, paddingExpected := none, paddingReceived := 0 } := rfl
@[simp] theorem State.rearm_enc (s : State) : s.rearm.enc = s.enc := rfl
@[simp] theorem State.rearm_table (s : State) : s.rearm.table = s.table := rfl
@[simp] theorem State.rearm_dgram (s : State) : s.rearm.dgram = s.dgram := rfl
@[simp] theorem State.rearm_fault (s : State) : s.rearm.fault = s.fault := rfl
@[simp] theorem State.rearm_log (s : State) : s.rearm.log = s.log := rfl
@[simp] theorem State.rearm_reply (s : State) : s.rearm.reply = s.reply := rfl
@[simp] theorem State.rearm_inbox (s : State) : s.rearm.inbox = s.inbox := rfl
@[simp] theorem State.rearm_openAnswer (s : State) : s.rearm.openAnswer = s.openAnswer := rfl
@[simp] theorem State.rearm_cfg (s : State) : s.rearm.cfg = s.cfg := rfl

/-! `State.armDatagram` -/

@[simp] theorem State.armDatagram_session (s : State) (b : Byte) : (s.armDatagram b).session = s.session := rfl
@[simp] theorem State.armDatagram_dec (s : State) (b : Byte) : (s.armDatagram b).dec = s.dec := rfl
@[simp] theorem State.armDatagram_enc (s : State) (b : Byte) : (s.armDatagram b).enc = s.enc := rfl
@[simp] theorem State.armDatagram_table (s : State) (b : Byte) : (s.armDatagram b).table = s.table := rfl
@[simp] theorem State.armDatagram_dgram (s : State) (b : Byte) :
    (s.armDatagram b).dgram = { s.dgram with nextValue := some b, ready := true } := rfl
@[simp] theorem State.armDatagram_fault (s : State) (b : Byte) : (s.armDatagram b).fault = s.fault := rfl
@[simp] theorem State.armDatagram_log (s : State) (b : Byte) : (s.armDatagram b).log = s.log ++ [.datagramReady] := rfl
@[simp] theorem State.armDatagram_reply (s : State) (b : Byte) : (s.armDatagram b).reply = s.reply := rfl
@[simp] theorem State.armDatagram_inbox (s : State) (b : Byte) : (s.armDatagram b).inbox = s.inbox := rfl
@[simp] theorem State.armDatagram_openAnswer (s : State) (b : Byte) : (s.armDatagram b).openAnswer = s.openAnswer := rfl
@[simp] theorem State.armDatagram_cfg (s : State) (b : Byte) : (s.armDatagram b).cfg = s.cfg := rfl

/-! `State.noteFirst` -/

@[simp] theorem State.noteFirst_session (s : State) (b : Byte) :
    (s.noteFirst b).session = { s.session with firstBaton := some (s.session.firstBaton.getD b) } := rfl
@[simp] theorem State.noteFirst_dec (s : State) (b : Byte) : (s.noteFirst b).dec = s.dec := rfl
@[simp] theorem State.noteFirst_enc (s : State) (b : Byte) : (s.noteFirst b).enc = s.enc := rfl
@[simp] theorem State.noteFirst_table (s : State) (b : Byte) : (s.noteFirst b).table = s.table := rfl
@[simp] theorem State.noteFirst_dgram (s : State) (b : Byte) : (s.noteFirst b).dgram = s.dgram := rfl
@[simp] theorem State.noteFirst_fault (s : State) (b : Byte) : (s.noteFirst b).fault = s.fault := rfl
@[simp] theorem State.noteFirst_log (s : State) (b : Byte) : (s.noteFirst b).log = s.log := rfl
@[simp] theorem State.noteFirst_reply (s : State) (b : Byte) : (s.noteFirst b).reply = s.reply := rfl
@[simp] theorem State.noteFirst_inbox (s : State) (b : Byte) : (s.noteFirst b).inbox = s.inbox := rfl
@[simp] theorem State.noteFirst_openAnswer (s : State) (b : Byte) : (s.noteFirst b).openAnswer = s.openAnswer := rfl
@[simp] theorem State.noteFirst_cfg (s : State) (b : Byte) : (s.noteFirst b).cfg = s.cfg := rfl

/-! `State.createSession` -/

@[simp] theorem State.createSession_session (s : State) (role : Role) (sid : StreamId) (bidi isLocal : Bool) (b : Option Byte) :
    (s.createSession role sid bidi isLocal b).session = { Session.reset with role := some role, state := .ready, ready := true, closed := false, batonOut := b, turnsRequired := some s.cfg.turnsRequired, controlStreamId := some sid } := rfl
@[simp] theorem State.createSession_dec (s : State) (role : Role) (sid : StreamId) (bidi isLocal : Bool) (b : Option Byte) :
    (s.createSession role sid bidi isLocal b).dec = .reset := rfl
@[simp] theorem State.createSession_enc (s : State) (role : Role) (sid : StreamId) (bidi isLocal : Bool) (b : Option Byte) :
    (s.createSession role sid bidi isLocal b).enc = .reset := rfl
@[simp] theorem State.createSession_table (s : State) (role : Role) (sid : StreamId) (bidi isLocal : Bool) (b : Option Byte) :
    (s.createSession role sid bidi isLocal b).table = StreamTable.put [] sid (newRecord bidi isLocal) := rfl
@[simp] theorem State.createSession_dgram (s : State) (role : Role) (sid : StreamId) (bidi isLocal : Bool) (b : Option Byte) :
    (s.createSession role sid bidi isLocal b).dgram = .reset := rfl
@[simp] theorem State.createSession_fault (s : State) (role : Role) (sid : StreamId) (bidi isLocal : Bool) (b : Option Byte) :
    (s.createSession role sid bidi isLocal b).fault = s.fault := rfl
@[simp] theorem State.createSession_log (s : State) (role : Role) (sid : StreamId) (bidi isLocal : Bool) (b : Option Byte) :
    (s.createSession role sid bidi isLocal b).log = s.log := rfl
@[simp] theorem State.createSession_reply (s : State) (role : Role) (sid : StreamId) (bidi isLocal : Bool) (b : Option Byte) :
    (s.createSession role sid bidi isLocal b).reply = s.reply := rfl
@[simp] theorem State.createSession_inbox (s : State) (role : Role) (sid : StreamId) (bidi isLocal : Bool) (b : Option Byte) :
    (s.createSession role sid bidi isLocal b).inbox = s.inbox := rfl
@[simp] theorem State.createSession_openAnswer (s : State) (role : Role) (sid : StreamId) (bidi isLocal : Bool) (b : Option Byte) :
    (s.createSession role sid bidi isLocal b).openAnswer = s.openAnswer := rfl
@[simp] theorem State.createSession_cfg (s : State) (role : Role) (sid : StreamId) (bidi isLocal : Bool) (b : Option Byte) :
    (s.createSession role sid bidi isLocal b).cfg = s.cfg := rfl

/-! `State.sendClose` -/

@[simp] theorem State.sendClose_session (s : State) (c : StreamId) (rec : StreamRecord) (code : CloseCode) :
    (s.sendClose c rec code).session = { s.session with closeCode := some code } := rfl
@[simp] theorem State.sendClose_dec (s : State) (c : StreamId) (rec : StreamRecord) (code : CloseCode) :
    (s.sendClose c rec code).dec = s.dec := rfl
@[simp] theorem State.sendClose_enc (s : State) (c : StreamId) (rec : StreamRecord) (code : CloseCode) :
    (s.sendClose c rec code).enc = s.enc := rfl
@[simp] theorem State.sendClose_table (s : State) (c : StreamId) (rec : StreamRecord) (code : CloseCode) :
    (s.sendClose c rec code).table = s.table.put c { rec with finSent := true } := rfl
@[simp] theorem State.sendClose_dgram (s : State) (c : StreamId) (rec : StreamRecord) (code : CloseCode) :
    (s.sendClose c rec code).dgram = s.dgram := rfl
@[simp] theorem State.sendClose_fault (s : State) (c : StreamId) (rec : StreamRecord) (code : CloseCode) :
    (s.sendClose c rec code).fault = s.fault := rfl
@[simp] theorem State.sendClose_log (s : State) (c : StreamId) (rec : StreamRecord) (code : CloseCode) :
    (s.sendClose c rec code).log = s.log ++ [.sendClose c code (reasonOf s.cfg code)] := rfl
@[simp] theorem State.sendClose_reply (s : State) (c : StreamId) (rec : StreamRecord) (code : CloseCode) :
    (s.sendClose c rec code).reply = s.reply := rfl
@[simp] theorem State.sendClose_inbox (s : State) (c : StreamId) (rec : StreamRecord) (code : CloseCode) :
    (s.sendClose c rec code).inbox = s.inbox := rfl
@[simp] theorem State.sendClose_openAnswer (s : State) (c : StreamId) (rec : StreamRecord) (code : CloseCode) :
    (s.sendClose c rec code).openAnswer = s.openAnswer := rfl
@[simp] theorem State.sendClose_cfg (s : State) (c : StreamId) (rec : StreamRecord) (code : CloseCode) :
    (s.sendClose c rec code).cfg = s.cfg := rfl

/-! `State.headStream` -/

@[simp] theorem State.headStream_session (s : State) (bidi : Bool) (sid control : StreamId) :
    (s.headStream bidi sid control).session = s.session := rfl
@[simp] theorem State.headStream_dec (s : State) (bidi : Bool) (sid control : StreamId) :
    (s.headStream bidi sid control).dec = s.dec := rfl
@[simp] theorem State.headStream_enc (s : State) (bidi : Bool) (sid control : StreamId) :
    (s.headStream bidi sid control).enc = s.enc := rfl
@[simp] theorem State.headStream_table (s : State) (bidi : Bool) (sid control : StreamId) :
    (s.headStream bidi sid control).table = s.table.put sid (newRecord bidi true) := rfl
@[simp] theorem State.headStream_dgram (s : State) (bidi : Bool) (sid control : StreamId) :
    (s.headStream bidi sid control).dgram = s.dgram := rfl
@[simp] theorem State.headStream_fault (s : State) (bidi : Bool) (sid control : StreamId) :
    (s.headStream bidi sid control).fault = s.fault := rfl
@[simp] theorem State.headStream_log (s : State) (bidi : Bool) (sid control : StreamId) :
    (s.headStream bidi sid control).log = s.log ++ [.writeHeader sid (header (headerTag s.cfg bidi) control)] := rfl
@[simp] theorem State.headStream_reply (s : State) (bidi : Bool) (sid control : StreamId) :
    (s.headStream bidi sid control).reply = s.reply := rfl
@[simp] theorem State.headStream_inbox (s : State) (bidi : Bool) (sid control : StreamId) :
    (s.headStream bidi sid control).inbox = s.inbox := rfl
@[simp] theorem State.headStream_openAnswer (s : State) (bidi : Bool) (sid control : StreamId) :
    (s.headStream bidi sid control).openAnswer = s.openAnswer := rfl
@[simp] theorem State.headStream_cfg (s : State) (bidi : Bool) (sid control : StreamId) :
    (s.headStream bidi sid control).cfg = s.cfg := rfl

/-! `State.completeFrame` -/

@[simp] theorem State.completeFrame_session (s : State) (sid : StreamId) (rec : StreamRecord) :
    (s.completeFrame sid rec).session = { s.session with activeSend := none, state := if s.session.state = .done then .done else .sent, activeRecv := none } := rfl
@[simp] theorem State.completeFrame_dec (s : State) (sid : StreamId) (rec : StreamRecord) :
    (s.completeFrame sid rec).dec = { s.dec with phase := .idle, scratchLen := 0, paddingExpected := none, paddingReceived := 0 } := rfl
@[simp] theorem State.completeFrame_enc (s : State) (sid : StreamId) (rec : StreamRecord) :
    (s.completeFrame sid rec).enc = s.enc := rfl
@[simp] theorem State.completeFrame_table (s : State) (sid : StreamId) (rec : StreamRecord) :
    (s.completeFrame sid rec).table = s.table.put sid { rec with finSent := true } := rfl
@[simp] theorem State.completeFrame_dgram (s : State) (sid : StreamId) (rec : StreamRecord) :
    (s.completeFrame sid rec).dgram = s.dgram := rfl
@[simp] theorem State.completeFrame_fault (s : State) (sid : StreamId) (rec : StreamRecord) :
    (s.completeFrame sid rec).fault = s.fault := rfl
@[simp] theorem State.completeFrame_log (s : State) (sid : StreamId) (rec : StreamRecord) :
    (s.completeFrame sid rec).log = s.log := rfl
@[simp] theorem State.completeFrame_reply (s : State) (sid : StreamId) (rec : StreamRecord) :
    (s.completeFrame sid rec).reply = s.reply := rfl
@[simp] theorem State.completeFrame_inbox (s : State) (sid : StreamId) (rec : StreamRecord) :
    (s.completeFrame sid rec).inbox = s.inbox := rfl
@[simp] theorem State.completeFrame_openAnswer (s : State) (sid : StreamId) (rec : StreamRecord) :
    (s.completeFrame sid rec).openAnswer = s.openAnswer := rfl
@[simp] theorem State.completeFrame_cfg (s : State) (sid : StreamId) (rec : StreamRecord) :
    (s.completeFrame sid rec).cfg = s.cfg := rfl

end Sys2Proof.Machine
end

