-- ==== Sys2Proof/Laws/Ops.lean ====
section
/-! SUPPORT. One lemma per shared operation that says once everything the operation can do; proofs cite these instead
of unfolding the operation. -/

namespace Sys2Proof.Machine

/-! Records of a state. -/

@[simp] theorem State.record_onSession (s : State) (f : Session → Session) (x : StreamId) :
    (s.onSession f).record x = s.record x := rfl
@[simp] theorem State.record_onDec (s : State) (f : Decoder → Decoder) (x : StreamId) :
    (s.onDec f).record x = s.record x := rfl
@[simp] theorem State.record_onEnc (s : State) (f : Encoder → Encoder) (x : StreamId) :
    (s.onEnc f).record x = s.record x := rfl
@[simp] theorem State.record_onDgram (s : State) (f : Datagram → Datagram) (x : StreamId) :
    (s.onDgram f).record x = s.record x := rfl
@[simp] theorem State.record_emit (s : State) (e : Event) (x : StreamId) : (s.emit e).record x = s.record x := rfl
@[simp] theorem State.record_replied (s : State) (o : OutcomeCode) (b : List Byte) (fin : Bool) (x : StreamId) :
    (s.replied o b fin).record x = s.record x := rfl
@[simp] theorem State.record_markClosed (s : State) (x : StreamId) : s.markClosed.record x = s.record x := rfl
@[simp] theorem State.record_rearm (s : State) (x : StreamId) : s.rearm.record x = s.record x := rfl
@[simp] theorem State.record_armDatagram (s : State) (b : Byte) (x : StreamId) :
    (s.armDatagram b).record x = s.record x := rfl
@[simp] theorem State.record_noteFirst (s : State) (b : Byte) (x : StreamId) :
    (s.noteFirst b).record x = s.record x := rfl

/-- `T[x]` after `T[sid] <- rec`. -/
theorem State.record_putRecord (s : State) (sid x : StreamId) (rec : StreamRecord) :
    (s.putRecord sid rec).record x = if x = sid then some rec else s.record x :=
  StreamTable.find_put _ _ _ _

@[simp] theorem State.record_putRecord_same (s : State) (sid : StreamId) (rec : StreamRecord) :
    (s.putRecord sid rec).record sid = some rec := StreamTable.find_put_same _ _ _

theorem State.record_putRecord_ne (s : State) {sid x : StreamId} (rec : StreamRecord) (h : x ≠ sid) :
    (s.putRecord sid rec).record x = s.record x := StreamTable.find_put_ne _ _ h

/-! Endings and reads. -/

/-- `Reply(outcome)` answers next, with only the reply changed. -/
theorem answer_next {o : OutcomeCode} {s s' : State} (h : answer o s = .next s') : s' = s.replied o [] false := by
  simpa [answer] using h.symm

/-- `raise Fault(kind)` answers next: the fault is recorded, no reply is given, all else is as it was. -/
theorem raiseFault_next {k : ModelFault} {s s' : State} (h : raiseFault k s = .next s') :
    s' = { s with fault := some k, reply := none } := by
  simpa [raiseFault] using h.symm

/-- A read that answers next read a value. -/
theorem needed_next {α : Type} {reg : RegName} {v : Option α} {k : α → Result} {s' : State}
    (h : needed reg v k = .next s') : ∃ x, v = some x ∧ k x = .next s' := by
  cases v with
  | none => simp [needed] at h
  | some x => exact ⟨x, rfl, h⟩

@[simp] theorem needed_some {α : Type} (reg : RegName) (x : α) (k : α → Result) : needed reg (some x) k = k x := rfl

/-- A record read that answers next found the record. -/
theorem withRecord_next {s s' : State} {sid : StreamId} {k : StreamRecord → Result}
    (h : withRecord s sid k = .next s') : ∃ rec, s.record sid = some rec ∧ k rec = .next s' := by
  simp only [withRecord] at h
  cases hr : s.record sid with
  | none => simp [hr] at h
  | some rec => exact ⟨rec, rfl, by simpa [hr] using h⟩

theorem withRecord_some {s : State} {sid : StreamId} {rec : StreamRecord} (h : s.record sid = some rec)
    (k : StreamRecord → Result) : withRecord s sid k = k rec := by simp [withRecord, h]

/-- A counter addition: the exact sum below 2^64, or overflow. -/
theorem addCounter_some {c c' : Counter} {n : Nat} (h : addCounter c n = some c') :
    c.toNat + n < 2 ^ 64 ∧ c'.toNat = c.toNat + n := by
  simp only [addCounter] at h
  split at h
  · rename_i hlt
    obtain rfl := Option.some.inj h
    exact ⟨hlt, by rw [BitVec.toNat_ofNat, Nat.mod_eq_of_lt hlt]⟩
  · cases h

theorem addCounter_none {c : Counter} {n : Nat} : addCounter c n = none ↔ 2 ^ 64 ≤ c.toNat + n := by
  simp only [addCounter]
  split <;> simp <;> omega

theorem addCounter_of_lt {c : Counter} {n : Nat} (h : c.toNat + n < 2 ^ 64) :
    addCounter c n = some (BitVec.ofNat 64 (c.toNat + n)) := if_pos h

/-! The checks every command begins with (R263). -/

/-- What `checked` can answer: halted, refused with only the reply changed, or the body. -/
theorem checked_cases (i : Instr) (accepts : SessionState → Bool) (s : State) (body : State → Result) :
    (∃ k, s.fault = some k ∧ checked i accepts s body = .fault (.halted k)) ∨
    (s.fault = none ∧ i.wf = false ∧ checked i accepts s body = answer .errIllegal s) ∨
    (s.fault = none ∧ i.wf = true ∧ accepts s.session.state = false ∧
      checked i accepts s body = answer .errNotActive s) ∨
    (s.fault = none ∧ i.wf = true ∧ accepts s.session.state = true ∧ checked i accepts s body = body s) := by
  simp only [checked]
  cases hf : s.fault with
  | some k => exact .inl ⟨k, rfl, rfl⟩
  | none =>
    cases hw : i.wf
    · exact .inr (.inl ⟨rfl, rfl, by simp⟩)
    · cases ha : accepts s.session.state
      · exact .inr (.inr (.inl ⟨rfl, rfl, rfl, by simp⟩))
      · exact .inr (.inr (.inr ⟨rfl, rfl, rfl, by simp⟩))

/-- A command that passes the checks runs its body. -/
theorem checked_run {i : Instr} {accepts : SessionState → Bool} {s : State} (hf : s.fault = none) (hw : i.wf = true)
    (ha : accepts s.session.state = true) (body : State → Result) : checked i accepts s body = body s := by
  simp [checked, hf, hw, ha]

/-! The close procedure (R220). -/

@[simp] theorem State.closeOn_session (s : State) (c : StreamId) (rec : StreamRecord) (code : CloseCode) :
    (s.closeOn c rec code).session =
      { s.session with
        state := .closed, closed := true,
        closeCode := if rec.finSent then s.session.closeCode else some code } := by
  simp only [State.closeOn]
  split <;> simp
@[simp] theorem State.closeOn_table (s : State) (c : StreamId) (rec : StreamRecord) (code : CloseCode) :
    (s.closeOn c rec code).table = if rec.finSent then s.table else s.table.put c { rec with finSent := true } := by
  simp only [State.closeOn]
  split <;> simp
@[simp] theorem State.closeOn_log (s : State) (c : StreamId) (rec : StreamRecord) (code : CloseCode) :
    (s.closeOn c rec code).log =
      s.log ++ (if rec.finSent then [] else [.sendClose c code (reasonOf s.cfg code)]) := by
  simp only [State.closeOn]
  split <;> simp
@[simp] theorem State.closeOn_dec (s : State) (c : StreamId) (rec : StreamRecord) (code : CloseCode) :
    (s.closeOn c rec code).dec = s.dec := by simp only [State.closeOn]; split <;> simp
@[simp] theorem State.closeOn_enc (s : State) (c : StreamId) (rec : StreamRecord) (code : CloseCode) :
    (s.closeOn c rec code).enc = s.enc := by simp only [State.closeOn]; split <;> simp
@[simp] theorem State.closeOn_dgram (s : State) (c : StreamId) (rec : StreamRecord) (code : CloseCode) :
    (s.closeOn c rec code).dgram = s.dgram := by simp only [State.closeOn]; split <;> simp
@[simp] theorem State.closeOn_fault (s : State) (c : StreamId) (rec : StreamRecord) (code : CloseCode) :
    (s.closeOn c rec code).fault = s.fault := by simp only [State.closeOn]; split <;> simp
@[simp] theorem State.closeOn_reply (s : State) (c : StreamId) (rec : StreamRecord) (code : CloseCode) :
    (s.closeOn c rec code).reply = s.reply := by simp only [State.closeOn]; split <;> simp
@[simp] theorem State.closeOn_inbox (s : State) (c : StreamId) (rec : StreamRecord) (code : CloseCode) :
    (s.closeOn c rec code).inbox = s.inbox := by simp only [State.closeOn]; split <;> simp
@[simp] theorem State.closeOn_openAnswer (s : State) (c : StreamId) (rec : StreamRecord) (code : CloseCode) :
    (s.closeOn c rec code).openAnswer = s.openAnswer := by simp only [State.closeOn]; split <;> simp
@[simp] theorem State.closeOn_cfg (s : State) (c : StreamId) (rec : StreamRecord) (code : CloseCode) :
    (s.closeOn c rec code).cfg = s.cfg := by simp only [State.closeOn]; split <;> simp

/-- A close that answers next ran on the control stream's record. -/
theorem closeThen_next {code : CloseCode} {s s' : State} {k : State → Result} (h : closeThen code s k = .next s') :
    ∃ c rec, s.session.controlStreamId = some c ∧ s.record c = some rec ∧ k (s.closeOn c rec code) = .next s' := by
  obtain ⟨c, hc, h⟩ := needed_next h
  obtain ⟨rec, hr, h⟩ := withRecord_next h
  exact ⟨c, rec, hc, hr, h⟩

/-- What `raise Close(code, outcome)` leaves. -/
theorem closeSession_next {code : CloseCode} {o : OutcomeCode} {s s' : State}
    (h : closeSession code o s = .next s') :
    ∃ c rec, s.session.controlStreamId = some c ∧ s.record c = some rec ∧
      s' = (s.closeOn c rec code).replied o [] false := by
  obtain ⟨c, rec, hc, hr, h⟩ := closeThen_next h
  exact ⟨c, rec, hc, hr, answer_next h⟩

theorem closeSession_run {s : State} {c : StreamId} {rec : StreamRecord} (hc : s.session.controlStreamId = some c)
    (hr : s.record c = some rec) (code : CloseCode) (o : OutcomeCode) :
    closeSession code o s = .next ((s.closeOn c rec code).replied o [] false) := by
  simp [closeSession, closeThen, hc, withRecord, hr, answer]

/-! The dispatcher (R200). -/

/-- Arming: an overflow of the turn counter, or the stream armed and OK (R204). -/
theorem armStream_next {sid : StreamId} {s s' : State} (h : armStream sid s = .next s') :
    (2 ^ 64 ≤ s.session.turnCount.toNat + 1 ∧ s' = { s with fault := some .counterOverflow, reply := none }) ∨
    (∃ turns, addCounter s.session.turnCount 1 = some turns ∧
      s' = (((s.onSession fun x => { x with turnCount := turns, activeSend := some sid }).onEnc
        fun _ => .reset).emit (.markActive sid s.cfg.sendPriority)).replied .ok [] false) := by
  simp only [armStream] at h
  cases ha : addCounter s.session.turnCount 1 with
  | none =>
    rw [ha] at h
    exact .inl ⟨addCounter_none.1 ha, raiseFault_next h⟩
  | some turns =>
    rw [ha] at h
    exact .inr ⟨turns, rfl, answer_next h⟩

/-- The three things a dispatch to a new stream can do: the open fails and the session closes, or the stream is opened
and headed and arming runs. -/
theorem openAndArm_next {bidi : Bool} {s s' : State} (h : openAndArm bidi s = .next s') :
    (s.openAnswer = none ∧
      closeSession .insufficientStreamCredit .errNoCredit (s.emit (openEvent bidi none)) = .next s') ∨
    (∃ sid control, s.openAnswer = some sid ∧ s.session.controlStreamId = some control ∧
      armStream sid ((s.emit (openEvent bidi (some sid))).headStream bidi sid control) = .next s') := by
  simp only [openAndArm] at h
  cases ho : s.openAnswer with
  | none => rw [ho] at h; exact .inl ⟨rfl, h⟩
  | some sid =>
    rw [ho] at h
    obtain ⟨control, hc, h⟩ := needed_next h
    exact .inr ⟨sid, control, rfl, hc, h⟩

/-- Everything a dispatch that answers next can have done (R200): overlap fault, a new stream, or the same stream. -/
theorem dispatchTurn_next {inbound : Option StreamId} {s s' : State} (h : dispatchTurn inbound s = .next s') :
    (s.session.activeSend ≠ none ∧ s' = { s with fault := some .turnOverlap, reply := none }) ∨
    (s.session.activeSend = none ∧ ∃ bidi, openAndArm bidi s = .next s') ∨
    (s.session.activeSend = none ∧ ∃ sid rec, inbound = some sid ∧ s.record sid = some rec ∧
      selectRoute s.cfg.bidiDispatch (some rec) = .same ∧ armSame sid rec s = .next s') := by
  simp only [dispatchTurn] at h
  cases ha : s.session.activeSend with
  | some a => rw [ha] at h; exact .inl ⟨by simp, raiseFault_next h⟩
  | none =>
    rw [ha] at h
    cases inbound with
    | none => exact .inr (.inl ⟨rfl, false, h⟩)
    | some sid =>
      obtain ⟨rec, hr, h⟩ := withRecord_next h
      simp only [dispatchInbound] at h
      cases hs : selectRoute s.cfg.bidiDispatch (some rec) with
      | newUni => rw [hs] at h; exact .inr (.inl ⟨rfl, false, h⟩)
      | newBidi => rw [hs] at h; exact .inr (.inl ⟨rfl, true, h⟩)
      | same => rw [hs] at h; exact .inr (.inr ⟨rfl, sid, rec, rfl, hr, hs, h⟩)

/-! The turn check (R180 to R186). -/

/-- Everything an accepted turn that answers next can have done: the turn counter overflows, or step 3's registers are
written, step 4 runs and the dispatch answers. -/
theorem acceptTurn_next {b : Byte} {r : StreamId} {s s' : State} (h : acceptTurn b r s = .next s') :
    (2 ^ 64 ≤ s.session.turnCount.toNat + 1 ∧
      s' = { s.noteFirst b with fault := some .counterOverflow, reply := none }) ∨
    (∃ turns n role, addCounter s.session.turnCount 1 = some turns ∧ s.session.turnsRequired = some n ∧
      s.session.role = some role ∧
      dispatchTurn (some r) (((s.noteFirst b).onSession fun x =>
        { x with turnCount := turns, batonOut := some (nextBaton n turns b), state := nextState n turns }).mirrorBaton
          b role) = .next s') := by
  simp only [acceptTurn] at h
  cases ha : addCounter s.session.turnCount 1 with
  | none => rw [ha] at h; exact .inl ⟨addCounter_none.1 ha, raiseFault_next h⟩
  | some turns =>
    rw [ha] at h
    obtain ⟨n, hn, h⟩ := needed_next h
    obtain ⟨role, hr, h⟩ := needed_next h
    exact .inr ⟨turns, n, role, rfl, hn, hr, h⟩

/-- Everything a turn check that answers next can have done: zero baton, sequence violation, or an accepted turn. -/
theorem turnCheck_next {s s' : State} (h : turnCheck s = .next s') :
    ∃ b r, s.session.batonIn = some b ∧ s.session.activeRecv = some r ∧
      ((b = 0 ∧ ∃ rec, s.record r = some rec ∧ zeroBaton r rec s = .next s') ∨
       (b ≠ 0 ∧ ∃ prev, s.session.batonOut = some prev ∧ s.session.firstBaton ≠ none ∧ b ≠ add8 prev 1 ∧
          closeSession .malformed .errSequence (s.onSession fun x => { x with state := .protocolError }) = .next s') ∨
       (b ≠ 0 ∧ (s.session.firstBaton = none ∨ ∃ prev, s.session.batonOut = some prev ∧ b = add8 prev 1) ∧
          acceptTurn b r s = .next s')) := by
  obtain ⟨b, hb, h⟩ := needed_next h
  obtain ⟨r, hr, h⟩ := needed_next h
  refine ⟨b, r, hb, hr, ?_⟩
  by_cases h0 : b = 0
  · rw [if_pos h0] at h
    obtain ⟨rec, hrec, h⟩ := withRecord_next h
    exact .inl ⟨h0, rec, hrec, h⟩
  · rw [if_neg h0] at h
    simp only [sequenceCheck] at h
    cases hf : s.session.firstBaton with
    | none => rw [hf] at h; exact .inr (.inr ⟨h0, .inl rfl, h⟩)
    | some f =>
      rw [hf] at h
      obtain ⟨prev, hp, h⟩ := needed_next h
      by_cases hs : b = add8 prev 1
      · rw [if_pos hs] at h
        exact .inr (.inr ⟨h0, .inr ⟨prev, hp, hs⟩, h⟩)
      · rw [if_neg hs] at h
        exact .inr (.inl ⟨h0, prev, hp, by simp, hs, h⟩)

/-! Mirroring keeps everything but the datagram registers and the log. -/

@[simp] theorem State.mirrorBaton_session (s : State) (b : Byte) (r : Role) :
    (s.mirrorBaton b r).session = s.session := by simp only [State.mirrorBaton]; split <;> simp
@[simp] theorem State.mirrorBaton_dec (s : State) (b : Byte) (r : Role) :
    (s.mirrorBaton b r).dec = s.dec := by simp only [State.mirrorBaton]; split <;> simp
@[simp] theorem State.mirrorBaton_enc (s : State) (b : Byte) (r : Role) :
    (s.mirrorBaton b r).enc = s.enc := by simp only [State.mirrorBaton]; split <;> simp
@[simp] theorem State.mirrorBaton_table (s : State) (b : Byte) (r : Role) :
    (s.mirrorBaton b r).table = s.table := by simp only [State.mirrorBaton]; split <;> simp
@[simp] theorem State.mirrorBaton_fault (s : State) (b : Byte) (r : Role) :
    (s.mirrorBaton b r).fault = s.fault := by simp only [State.mirrorBaton]; split <;> simp
@[simp] theorem State.mirrorBaton_reply (s : State) (b : Byte) (r : Role) :
    (s.mirrorBaton b r).reply = s.reply := by simp only [State.mirrorBaton]; split <;> simp
@[simp] theorem State.mirrorBaton_inbox (s : State) (b : Byte) (r : Role) :
    (s.mirrorBaton b r).inbox = s.inbox := by simp only [State.mirrorBaton]; split <;> simp
@[simp] theorem State.mirrorBaton_openAnswer (s : State) (b : Byte) (r : Role) :
    (s.mirrorBaton b r).openAnswer = s.openAnswer := by simp only [State.mirrorBaton]; split <;> simp
@[simp] theorem State.mirrorBaton_cfg (s : State) (b : Byte) (r : Role) :
    (s.mirrorBaton b r).cfg = s.cfg := by simp only [State.mirrorBaton]; split <;> simp
@[simp] theorem State.mirrorBaton_record (s : State) (b : Byte) (r : Role) (x : StreamId) :
    (s.mirrorBaton b r).record x = s.record x := by simp [State.record]
@[simp] theorem State.mirrorBaton_dgram (s : State) (b : Byte) (r : Role) :
    (s.mirrorBaton b r).dgram =
      if armsDatagram b r then { s.dgram with nextValue := some b, ready := true } else s.dgram := by
  simp only [State.mirrorBaton]; split <;> simp
@[simp] theorem State.mirrorBaton_log (s : State) (b : Byte) (r : Role) :
    (s.mirrorBaton b r).log = s.log ++ (if armsDatagram b r then [.datagramReady] else []) := by
  simp only [State.mirrorBaton]; split <;> simp

/-! The decoder (R120 to R131). -/

/-- What learning a stream does: its record is there afterwards, and no other record changes. -/
theorem State.knowStream_record (s : State) (sid : StreamId) (bidi : Bool) (x : StreamId) :
    (s.knowStream sid bidi).record x =
      if x = sid then some ((s.record sid).getD (newRecord bidi false)) else s.record x := by
  simp only [State.knowStream]
  cases h : s.record sid with
  | some rec => by_cases hx : x = sid <;> simp [hx, h]
  | none => simp [State.record_putRecord]

/-- Everything the processing of one byte can do, by phase (R124, R127, R128, R129). -/
theorem decodeByte_ok {sid : StreamId} {b : Byte} {s s' : State} {now : Bool}
    (h : decodeByte sid b s = .ok s' now) :
    (s.dec.phase = .len ∧ now = false ∧
      ∃ m b0, s.dec.scratch.write s.dec.scratchLen b = some m ∧ m.read 0 = some b0 ∧ vlen b0 ≤ 2 ∧
        ((s.dec.scratchLen + 1 ≠ vlen b0 ∧
            s' = s.onDec fun d => { d with scratch := m, scratchLen := d.scratchLen + 1 }) ∨
         (s.dec.scratchLen + 1 = vlen b0 ∧ ∃ bs, scratchPrefix m (vlen b0) = some bs ∧
            s' = s.onDec fun d =>
              ({ d with scratch := m, scratchLen := d.scratchLen + 1 } : Decoder).beginPadding
                (BitVec.ofNat 14 (varintValue bs))))) ∨
    (s.dec.phase = .pad ∧ now = false ∧ s' = s.onDec Decoder.countPadding) ∨
    (s.dec.phase = .baton ∧ now = true ∧ ∃ rec, s.record sid = some rec ∧
      s' = ((s.onSession fun x => { x with batonIn := some b }).putRecord sid { rec with frameDone := true }).onDec
        fun d => { d with phase := .done }) := by
  simp only [decodeByte] at h
  cases hp : s.dec.phase with
  | idle => simp [hp] at h
  | done => simp [hp] at h
  | pad =>
    rw [hp] at h
    obtain ⟨rfl, rfl⟩ := ByteRun.ok.inj h
    exact .inr (.inl ⟨rfl, rfl, rfl⟩)
  | baton =>
    rw [hp] at h
    simp only [batonByte] at h
    cases hr : s.record sid with
    | none => simp [hr] at h
    | some rec =>
      rw [hr] at h
      obtain ⟨rfl, rfl⟩ := ByteRun.ok.inj h
      exact .inr (.inr ⟨rfl, rfl, rec, rfl, rfl⟩)
  | len =>
    rw [hp] at h
    simp only [lenByte] at h
    cases hw : s.dec.scratch.write s.dec.scratchLen b with
    | none => simp [hw] at h
    | some m =>
      rw [hw] at h
      simp only [prefixStored, State.onDec_dec] at h
      cases h0 : m.read 0 with
      | none => simp [h0] at h
      | some b0 =>
        rw [h0] at h
        simp only at h
        by_cases hv : vlen b0 > 2
        · simp [hv] at h
        · rw [if_neg hv] at h
          by_cases hl : s.dec.scratchLen + 1 = vlen b0
          · cases hs : scratchPrefix m (vlen b0) with
            | none => simp [hl, hs] at h
            | some bs =>
              simp only [hl, hs, if_true] at h
              obtain ⟨rfl, rfl⟩ := ByteRun.ok.inj h
              exact .inl ⟨rfl, rfl, m, b0, rfl, h0, by omega, .inr ⟨hl, bs, hs, rfl⟩⟩
          · simp only [hl, if_false] at h
            obtain ⟨rfl, rfl⟩ := ByteRun.ok.inj h
            exact .inl ⟨rfl, rfl, m, b0, rfl, h0, by omega, .inl ⟨hl, rfl⟩⟩

/-- A byte is a violation only after the baton, with nothing written, or in a prefix whose first byte announces more
than two bytes, with that byte stored (R124, R129). -/
theorem decodeByte_violation {sid : StreamId} {b : Byte} {s s' : State} (h : decodeByte sid b s = .violation s') :
    (s.dec.phase = .done ∧ s' = s) ∨
    (s.dec.phase = .len ∧ ∃ m b0, s.dec.scratch.write s.dec.scratchLen b = some m ∧ m.read 0 = some b0 ∧
      2 < vlen b0 ∧ s' = s.onDec fun d => { d with scratch := m, scratchLen := d.scratchLen + 1 }) := by
  simp only [decodeByte] at h
  cases hp : s.dec.phase with
  | idle => simp [hp] at h
  | done => rw [hp] at h; exact .inl ⟨rfl, (ByteRun.violation.inj h).symm⟩
  | pad => simp [hp] at h
  | baton =>
    rw [hp] at h
    simp only [batonByte] at h
    cases hr : s.record sid <;> simp [hr] at h
  | len =>
    rw [hp] at h
    simp only [lenByte] at h
    cases hw : s.dec.scratch.write s.dec.scratchLen b with
    | none => simp [hw] at h
    | some m =>
      rw [hw] at h
      simp only [prefixStored, State.onDec_dec] at h
      cases h0 : m.read 0 with
      | none => simp [h0] at h
      | some b0 =>
        rw [h0] at h
        simp only at h
        by_cases hv : vlen b0 > 2
        · rw [if_pos hv] at h
          exact .inr ⟨rfl, m, b0, rfl, h0, hv, (ByteRun.violation.inj h).symm⟩
        · by_cases hl : s.dec.scratchLen + 1 = vlen b0
          · cases hs : scratchPrefix m (vlen b0) <;> simp [hv, hl, hs] at h
          · simp [hv, hl] at h

@[simp] theorem decodeBytes_nil (sid : StreamId) (c : Bool) (s : State) : decodeBytes sid [] c s = .ok s c := rfl

theorem decodeBytes_cons (sid : StreamId) (b : Byte) (bs : List Byte) (c : Bool) (s : State) :
    decodeBytes sid (b :: bs) c s =
      match decodeByte sid b s with
      | .ok s' now => decodeBytes sid bs (c || now) s'
      | .violation s' => .violation s'
      | .stuck f => .stuck f := rfl

/-- Processing two ranges one after the other is processing their concatenation (R133). -/
theorem decodeBytes_append (sid : StreamId) (xs ys : List Byte) (c : Bool) (s : State) :
    decodeBytes sid (xs ++ ys) c s =
      match decodeBytes sid xs c s with
      | .ok s' c' => decodeBytes sid ys c' s'
      | .violation s' => .violation s'
      | .stuck f => .stuck f := by
  induction xs generalizing c s with
  | nil => simp
  | cons x xs ih =>
    simp only [List.cons_append, decodeBytes_cons]
    cases decodeByte sid x s with
    | ok s' now => exact ih _ _
    | violation s' => rfl
    | stuck f => rfl

/-- Processing bytes preserves what every byte preserves. -/
theorem decodeBytes_ind {sid : StreamId} {P : State → Prop}
    (hok : ∀ b s s' now, P s → decodeByte sid b s = .ok s' now → P s')
    (hv : ∀ b s s', P s → decodeByte sid b s = .violation s' → P s') {bs : List Byte} {c : Bool} {s : State}
    (hs : P s) :
    (∀ s' c', decodeBytes sid bs c s = .ok s' c' → P s') ∧ (∀ s', decodeBytes sid bs c s = .violation s' → P s') := by
  induction bs generalizing c s with
  | nil => exact ⟨fun s' c' h => (ByteRun.ok.inj h).1 ▸ hs, fun s' h => by cases h⟩
  | cons b bs ih =>
    simp only [decodeBytes_cons]
    cases hb : decodeByte sid b s with
    | ok s1 now => exact ih (hok b s s1 now hs hb)
    | violation s1 =>
      exact ⟨fun s' c' h => (by cases h), fun s' h => (ByteRun.violation.inj h) ▸ hv b s s1 hs hb⟩
    | stuck f => exact ⟨fun s' c' h => (by cases h), fun s' h => (by cases h)⟩

/-- What a delivery on a known stream that answers next can have done: the byte counter overflows (R122), or the counter
is written and the empty range or the bytes are handled. -/
theorem receiveRange_next {sid : StreamId} {fin : Bool} {payload : List Byte} {s s' : State}
    (h : receiveRange sid fin payload s = .next s') :
    (2 ^ 64 ≤ s.session.streamBytesReceived.toNat + payload.length ∧
      s' = { s with fault := some .counterOverflow, reply := none }) ∨
    (∃ total, addCounter s.session.streamBytesReceived payload.length = some total ∧
      ((payload = [] ∧
          emptyRange sid fin (s.onSession fun x => { x with streamBytesReceived := total }) = .next s') ∨
       (payload ≠ [] ∧
          byteRange sid fin payload (s.onSession fun x => { x with streamBytesReceived := total }) = .next s'))) := by
  simp only [receiveRange] at h
  cases ha : addCounter s.session.streamBytesReceived payload.length with
  | none => rw [ha] at h; exact .inl ⟨addCounter_none.1 ha, raiseFault_next h⟩
  | some total =>
    rw [ha] at h
    simp only at h
    refine .inr ⟨total, rfl, ?_⟩
    by_cases hp : payload = []
    · rw [if_pos hp] at h; exact .inl ⟨hp, h⟩
    · rw [if_neg hp] at h; exact .inr ⟨hp, h⟩

/-- What a non-empty range that answers next can have done (R123, R126, R130, R131). -/
theorem byteRange_next {sid : StreamId} {fin : Bool} {payload : List Byte} {s s' : State}
    (h : byteRange sid fin payload s = .next s') :
    ∃ rec, s.record sid = some rec ∧
      ((rec.frameDone = true ∧ framingViolation s = .next s') ∨
       (rec.frameDone = false ∧ s.dec.phase ≠ .idle ∧ s.session.activeRecv ≠ some sid ∧
          framingViolation s = .next s') ∨
       (rec.frameDone = false ∧ (s.dec.phase = .idle ∨ s.session.activeRecv = some sid) ∧
          ((∃ t, decodeBytes sid payload false (s.associate sid) = .violation t ∧ framingViolation t = .next s') ∨
           (∃ t c, decodeBytes sid payload false (s.associate sid) = .ok t c ∧
              endOfRange sid fin c t = .next s')))) := by
  obtain ⟨rec, hr, h⟩ := withRecord_next h
  refine ⟨rec, hr, ?_⟩
  by_cases hd : rec.frameDone = true
  · rw [if_pos hd] at h
    exact .inl ⟨hd, h⟩
  · rw [if_neg hd] at h
    have hd' : rec.frameDone = false := by simpa using hd
    by_cases hs : s.dec.phase ≠ .idle ∧ s.session.activeRecv ≠ some sid
    · rw [if_pos hs] at h
      exact .inr (.inl ⟨hd', hs.1, hs.2, h⟩)
    · rw [if_neg hs] at h
      refine .inr (.inr ⟨hd', by tauto, ?_⟩)
      cases hb : decodeBytes sid payload false (s.associate sid) with
      | ok t c => rw [hb] at h; exact .inr ⟨t, c, rfl, h⟩
      | violation t => rw [hb] at h; exact .inl ⟨t, rfl, h⟩
      | stuck f => rw [hb] at h; cases h

/-- Recording the end of a stream, then going on. -/
theorem recordFin_next {sid : StreamId} {s s' : State} {k : State → Result} (h : recordFin sid s k = .next s') :
    ∃ rec, s.record sid = some rec ∧ k (s.putRecord sid { rec with finReceived := true }) = .next s' :=
  withRecord_next h

/-- How a range that raised no byte violation ends (R130, R131). -/
theorem endOfRange_next {sid : StreamId} {fin c : Bool} {s s' : State} (h : endOfRange sid fin c s = .next s') :
    (fin = true ∧ s.dec.phase ≠ .done ∧ framingViolation s = .next s') ∨
    (∃ t, (t = s ∧ fin = false ∨
        fin = true ∧ s.dec.phase = .done ∧
          ∃ rec, s.record sid = some rec ∧ t = s.putRecord sid { rec with finReceived := true }) ∧
      ((c = true ∧ turnCheck t = .next s') ∨ (c = false ∧ s' = t.replied .ok [] false))) := by
  have fin_cases : ∀ t, finishDelivery c t = .next s' →
      (c = true ∧ turnCheck t = .next s') ∨ (c = false ∧ s' = t.replied .ok [] false) := by
    intro t ht
    cases c
    · exact .inr ⟨rfl, answer_next ht⟩
    · exact .inl ⟨rfl, ht⟩
  simp only [endOfRange] at h
  cases fin
  · exact .inr ⟨s, .inl ⟨rfl, rfl⟩, fin_cases s h⟩
  · by_cases hp : s.dec.phase = .done
    · have h' : recordFin sid s (finishDelivery c) = .next s' := by simpa [hp] using h
      obtain ⟨rec, hr, h'⟩ := recordFin_next h'
      exact .inr ⟨_, .inr ⟨rfl, hp, rec, hr, rfl⟩, fin_cases _ h'⟩
    · exact .inl ⟨rfl, hp, by simpa [hp] using h⟩

/-- What an empty range that answers next can have done (R123). -/
theorem emptyRange_next {sid : StreamId} {fin : Bool} {s s' : State} (h : emptyRange sid fin s = .next s') :
    (fin = false ∧ s' = s.replied .ok [] false) ∨
    (fin = true ∧ s.session.activeRecv = some sid ∧ s.dec.phase ≠ .done ∧ framingViolation s = .next s') ∨
    (fin = true ∧ ∃ rec, s.record sid = some rec ∧
      s' = (s.putRecord sid { rec with finReceived := true }).replied .ok [] false) := by
  simp only [emptyRange] at h
  cases fin
  · exact .inl ⟨rfl, answer_next h⟩
  · by_cases hv : s.session.activeRecv = some sid ∧ s.dec.phase ≠ .done
    · exact .inr (.inl ⟨rfl, hv.1, hv.2, by simpa [hv] using h⟩)
    · have h' : recordFin sid s (answer .ok) = .next s' := by simpa [hv] using h
      obtain ⟨rec, hr, h'⟩ := recordFin_next h'
      exact .inr (.inr ⟨rfl, rec, hr, answer_next h'⟩)

/-! The encoder (R150 to R157). -/

/-- What a REQUEST_SEND that writes can leave: part of the frame, or the whole of it with the stream finished. -/
theorem writeFrame_next {sid : StreamId} {p : PadLen} {b : Byte} {m : Nat} {s s' : State}
    (h : writeFrame sid p b m s = .next s') :
    ∃ t, t = s.onEnc (fun e =>
        ({ e with paddingRequired := some p } : Encoder).advance p (sendCount e (frame p.toNat b) m)) ∧
      ((s.enc.written + sendCount s.enc (frame p.toNat b) m = (frame p.toNat b).length ∧
          ∃ rec, s.record sid = some rec ∧
            s' = (t.completeFrame sid rec).replied .ok (sendBytes s.enc (frame p.toNat b) m) true) ∨
       (s.enc.written + sendCount s.enc (frame p.toNat b) m ≠ (frame p.toNat b).length ∧
          s' = t.replied .ok (sendBytes s.enc (frame p.toNat b) m) false)) := by
  refine ⟨_, rfl, ?_⟩
  simp only [writeFrame] at h
  split at h
  · rename_i hc
    obtain ⟨rec, hr, h⟩ := withRecord_next h
    exact .inl ⟨hc, rec, hr, by simpa using h.symm⟩
  · rename_i hc
    exact .inr ⟨hc, by simpa using h.symm⟩

/-! The datagram counters (R242, R244). -/

/-- Counting a sent datagram: one of the two counters overflows, or both are written and the command goes on. -/
theorem countSent_next {n : Nat} {s s' : State} {k : State → Result} (h : countSent n s k = .next s') :
    (∃ t, s' = { t with fault := some .counterOverflow, reply := none } ∧
      (t = s ∨ ∃ sent, t = s.onDgram fun g => { g with sent := sent })) ∨
    (∃ sent bytes, addCounter s.dgram.sent 1 = some sent ∧ addCounter s.dgram.bytesSent n = some bytes ∧
      k (s.onDgram fun g => { g with sent := sent, bytesSent := bytes }) = .next s') := by
  simp only [countSent] at h
  cases h1 : addCounter s.dgram.sent 1 with
  | none => rw [h1] at h; exact .inl ⟨s, raiseFault_next h, .inl rfl⟩
  | some sent =>
    rw [h1] at h
    simp only at h
    cases h2 : addCounter s.dgram.bytesSent n with
    | none => rw [h2] at h; exact .inl ⟨_, raiseFault_next h, .inr ⟨sent, rfl⟩⟩
    | some bytes => rw [h2] at h; exact .inr ⟨sent, bytes, rfl, rfl, h⟩

/-- Counting a received datagram: one of the two counters overflows, or both are written and the command goes on. -/
theorem countReceived_next {n : Nat} {s s' : State} {k : State → Result} (h : countReceived n s k = .next s') :
    (∃ t, s' = { t with fault := some .counterOverflow, reply := none } ∧
      (t = s ∨ ∃ received, t = s.onDgram fun g => { g with received := received })) ∨
    (∃ received bytes, addCounter s.dgram.received 1 = some received ∧
      addCounter s.dgram.bytesReceived n = some bytes ∧
      k (s.onDgram fun g => { g with received := received, bytesReceived := bytes }) = .next s') := by
  simp only [countReceived] at h
  cases h1 : addCounter s.dgram.received 1 with
  | none => rw [h1] at h; exact .inl ⟨s, raiseFault_next h, .inl rfl⟩
  | some received =>
    rw [h1] at h
    simp only at h
    cases h2 : addCounter s.dgram.bytesReceived n with
    | none => rw [h2] at h; exact .inl ⟨_, raiseFault_next h, .inr ⟨received, rfl⟩⟩
    | some bytes => rw [h2] at h; exact .inr ⟨received, bytes, rfl, rfl, h⟩

end Sys2Proof.Machine
end

