-- ==== Sys2Proof/Laws/PerInstr.lean ====
section
/-! SUPPORT. A statement made command by command: the word of every command has its opcode in OPC (R84), zeros in the
reserved fields (R80), and zeros in every field that R81 marks unused for it. -/

namespace Sys2Proof.Laws

/-- What the encoded word of `i` holds outside its operands. -/
def EncodedFields.Statement (i : Instr) : Prop :=
  (fieldsOf (encode i).1).opc = i.opcode.value ∧ reservedZero (fieldsOf (encode i).1) = true ∧
    unusedZero (usageOf i.opcode) (fieldsOf (encode i).1) = true

theorem EncodedFields.accept (sid : StreamId) (bidi isLocal : Bool) (seed : Byte) :
    EncodedFields.Statement (.accept sid bidi isLocal seed) := by
  simp [Statement, encode, Instr.fields, emptyFields, reservedZero, unusedZero, usageOf, Instr.opcode]

theorem EncodedFields.connect (sid : StreamId) (bidi isLocal : Bool) :
    EncodedFields.Statement (.connect sid bidi isLocal) := by
  simp [Statement, encode, Instr.fields, emptyFields, reservedZero, unusedZero, usageOf, Instr.opcode]

theorem EncodedFields.deregister : EncodedFields.Statement .deregister := by
  simp [Statement, encode, Instr.fields, emptyFields, reservedZero, unusedZero, usageOf, Instr.opcode]

theorem EncodedFields.deliverBytes (sid : StreamId) (fin bidi isLocal : Bool) (payload : List Byte) :
    EncodedFields.Statement (.deliverBytes sid fin bidi isLocal payload) := by
  simp [Statement, encode, Instr.fields, emptyFields, reservedZero, unusedZero, usageOf, Instr.opcode]

theorem EncodedFields.requestSend (sid : StreamId) (maxLen : BitVec 16) :
    EncodedFields.Statement (.requestSend sid maxLen) := by
  simp [Statement, encode, Instr.fields, emptyFields, reservedZero, unusedZero, usageOf, Instr.opcode]

theorem EncodedFields.deliverDatagram (payload : List Byte) :
    EncodedFields.Statement (.deliverDatagram payload) := by
  simp [Statement, encode, Instr.fields, emptyFields, reservedZero, unusedZero, usageOf, Instr.opcode]

theorem EncodedFields.requestDatagram (maxLen pad : BitVec 16) :
    EncodedFields.Statement (.requestDatagram maxLen pad) := by
  simp [Statement, encode, Instr.fields, emptyFields, reservedZero, unusedZero, usageOf, Instr.opcode]

theorem EncodedFields.notifyReset (sid : StreamId) : EncodedFields.Statement (.notifyReset sid) := by
  simp [Statement, encode, Instr.fields, emptyFields, reservedZero, unusedZero, usageOf, Instr.opcode]

theorem EncodedFields.idleTimeout : EncodedFields.Statement .idleTimeout := by
  simp [Statement, encode, Instr.fields, emptyFields, reservedZero, unusedZero, usageOf, Instr.opcode]

end Sys2Proof.Laws
end

