-- ==== Sys2Proof/Laws/Safety.lean ====
section
/-! SUPPORT. The checks of R121 as the claims say them, and the canonical form of the two finite maps: block reset has
it, and every operation that writes one of them keeps it. -/

namespace Sys2Proof.Machine

/-- What holds of an option's value by evaluation holds of every member. -/
theorem forall_mem_of_all {α : Type} {o : Option α} {P : α → Prop} [DecidablePred P]
    (h : o.all (fun a => decide (P a)) = true) : ∀ a ∈ o, P a := by
  cases o with
  | none => intro a ha; cases ha
  | some x => rintro _ ⟨⟩; simpa using h

/-- The model's test is the disjunction of R121. -/
theorem streamRefused_iff (s : State) (sid : StreamId) (isLocal : Bool) :
    streamRefused s sid isLocal = true ↔ HostDutyBroken s sid isLocal := by
  simp only [streamRefused, HostDutyBroken]
  cases hr : s.record sid with
  | none => simp
  | some rec => simp

theorem not_hostDutyBroken {s : State} {sid : StreamId} {isLocal : Bool} (h : streamRefused s sid isLocal = false) :
    ¬ HostDutyBroken s sid isLocal := fun hb => by
  rw [(streamRefused_iff s sid isLocal).2 hb] at h
  cases h

/-! The canonical form. -/

/-- After block reset both maps are in canonical form. -/
theorem reset_canonical : Canonical State.reset := by decide

theorem Canonical.putRecord {s : State} (h : Canonical s) (sid : StreamId) (rec : StreamRecord) :
    Canonical (s.putRecord sid rec) := ⟨StreamTable.put_wf h.1 sid rec, h.2⟩

theorem Canonical.clearRegisters (s : State) : Canonical s.clearRegisters :=
  ⟨StreamTable.wf_nil, List.Pairwise.nil, fun _ h => absurd h List.not_mem_nil⟩

theorem Canonical.rearm {s : State} (h : Canonical s) : Canonical s.rearm := h

theorem Canonical.closeOn {s : State} (h : Canonical s) (c : StreamId) (rec : StreamRecord) (code : CloseCode) :
    Canonical (s.closeOn c rec code) := by
  refine ⟨?_, by simpa using h.2⟩
  simp only [State.closeOn_table]
  split
  · exact h.1
  · exact StreamTable.put_wf h.1 _ _

theorem Canonical.knowStream {s : State} (h : Canonical s) (sid : StreamId) (bidi : Bool) :
    Canonical (s.knowStream sid bidi) := by
  simp only [State.knowStream]
  split
  · exact h
  · exact h.putRecord _ _

/-- A byte of a delivery keeps the canonical form. -/
theorem Canonical.decodeByte {s s' : State} {sid : StreamId} {b : Byte} {now : Bool} (h : Canonical s)
    (hb : decodeByte sid b s = .ok s' now) : Canonical s' := by
  rcases decodeByte_ok hb with ⟨_, _, m, _, hw, _, _, hc⟩ | ⟨_, _, rfl⟩ | ⟨_, _, rec, _, rfl⟩
  · have hm := (Memory.write_spec hw).2.2.2 h.2
    rcases hc with ⟨_, rfl⟩ | ⟨_, _, _, rfl⟩
    · exact ⟨h.1, hm⟩
    · exact ⟨h.1, hm⟩
  · exact h
  · exact ⟨StreamTable.put_wf h.1 _ _, h.2⟩

end Sys2Proof.Machine
end

