-- ==== Sys2Proof/Tests/Slice0.lean ====
section
/-! SUPPORT. Tests: ill-formed terms refused, words decoded, one step per command, each expected result taken from the
spec's own examples (spec/95_test_vectors.md) and named by its id; then, for every obligation with hypotheses, a state
and operands that meet them. -/

namespace Sys2Proof.Tests

open Sys2Proof Sys2Proof.Machine

/-! The start states of spec/95_test_vectors.md section 1.1. -/

/-- The example parameters of spec/95_test_vectors.md section 1. -/
def params : Params where
  turnsRequired := 8
  tagUni := 0x54
  tagBidi := 0x41
  sendPriority := 0
  reasons := { success := [], insufficientStreamCredit := [1], malformed := [2], allStreamsReset := [3], idleTimeout := [4] }
  bidiDispatch := .asDocumented

/-- Block reset with the example parameters. -/
def blank : State := { State.reset with cfg := params }

/-- The next state of a result; `blank` where there is none. -/
def after : Result → State
  | .next s => s
  | .fault _ => blank
  | .refused _ => blank

/-- The transport's answer to the next open. -/
def opens (a : StreamId) (s : State) : State := { s with openAnswer := some a }

/-- `S_I`: CONNECT sid=0, bidi=1, local=1. -/
def si : State := after (exec (.connect 0 true true) blank)

/-- `S_R`: ACCEPT sid=0, bidi=1, local=0, seed=0x10 with the open answered 3. -/
def sr : State := after (exec (.accept 0 true false 0x10) (opens 3 blank))

/-- `S_I` in the middle of a frame's padding on stream 3: two padding bytes expected, one received. -/
def midPad : State := after (exec (.deliverBytes 3 false false false [0x02, 0x00]) si)

/-- `S_I` with a frame delivered whole on stream 3 and the reply queued on stream 4. -/
def replied : State := after (exec (.deliverBytes 3 true false false [0x00, 0x2a]) (opens 4 si))

/-- `S_I` closed by the watchdog. -/
def closed : State := after (exec .idleTimeout si)

/-- `S_R` with its frame begun by an offer of one byte. -/
def begun : State := after (exec (.requestSend 3 1) sr)

/-- `S_I` with a datagram of value 8 armed (vector TRN-20). -/
def armed : State := after (exec (.deliverBytes 3 true false false [0x00, 0x08]) (opens 4 si))

/-- A block halted by a second frame on the responder before its first was written (program P10). -/
def halted : State := after (exec (.deliverBytes 4 true true false [0x00, 0x11]) sr)

/-- One delivery of a word, its payload and an open answer. -/
def delivered (w : Descriptor) (payload : List Byte) (a : Option StreamId) (s : State) : State :=
  { s with inbox := [{ word := w, payload := payload, openAnswer := a }] }

/-! WellFormed. -/

theorem test_wf_seed_zero : (Instr.accept 0 true false 0).wf = false := by decide
theorem test_wf_seed_129 : (Instr.accept 0 true false 129).wf = false := by decide
theorem test_wf_seed_bounds : (Instr.accept 0 true false 1).wf = true ∧ (Instr.accept 0 true false 128).wf = true := by
  decide
theorem test_wf_delivery_too_long (sid : StreamId) :
    (Instr.deliverBytes sid false false false (List.replicate 65536 0)).wf = false := by
  simp only [Instr.wf, payloadLegal, List.length_replicate]
  decide
theorem test_wf_datagram_too_long : (Instr.deliverDatagram (List.replicate 65536 0)).wf = false := by
  simp only [Instr.wf, payloadLegal, List.length_replicate]
  decide

/-! Decoding: the words of spec/95_test_vectors.md section 3.1, written out from R80 to R84. -/

theorem test_decode_accept :
    decode 0x00000029000000000000000000000201 [] = .ok (.accept 0 true false 0x29) := by decide
theorem test_decode_connect : decode 0x00000000000000000000000000000602 [] = .ok (.connect 0 true true) := by decide
theorem test_decode_deregister : decode 0x00000000000000000000000000000003 [] = .ok .deregister := by decide
theorem test_decode_deliver_bytes :
    decode 0x00000000000000000000000400020310 [0x00, 0x2a] = .ok (.deliverBytes 4 true true false [0x00, 0x2a]) := by
  decide
theorem test_decode_request_send : decode 0x00000000000000000000000704b00011 [] = .ok (.requestSend 7 1200) := by decide
theorem test_decode_deliver_datagram :
    decode 0x00000000000000000000000000030020 [0x01, 0x00, 0x2a] = .ok (.deliverDatagram [0x01, 0x00, 0x2a]) := by
  decide
theorem test_decode_request_datagram :
    decode 0x00000005000000000000000006000021 [] = .ok (.requestDatagram 1536 5) := by decide
theorem test_decode_notify_reset : decode 0x00000000000000000000000400000030 [] = .ok (.notifyReset 4) := by decide
theorem test_decode_idle_timeout : decode 0x00000000000000000000000000000031 [] = .ok .idleTimeout := by decide

/-- DSC-01 and DSC-02: unassigned opcodes. -/
theorem test_reject_opcode : decode 0x04 [] = .error .unknownOpcode ∧ decode 0xff [] = .error .unknownOpcode := by decide
/-- DSC-03 and DSC-04: RSV0 and RSV1. -/
theorem test_reject_reserved :
    decode 0x00000000000000000000000300000810 [] = .error .reservedNonZero ∧
    decode 0x00010000000000000000000300000010 [] = .error .reservedNonZero := by decide
/-- DSC-05 to DSC-07 and DSC-09: fields the opcode does not use. -/
theorem test_reject_unused :
    decode 0x00000001000000000000000300000010 [] = .error .unusedNonZero ∧
    decode 0x000000000000000000000004000a0111 [] = .error .unusedNonZero ∧
    decode 0x000000000000000000000004000a0211 [] = .error .unusedNonZero ∧
    decode 0x00000000000000000000000400010030 [] = .error .unusedNonZero := by decide
/-- DSC-08: a stream id of 2^62. -/
theorem test_reject_sid : decode 0x00000000400000000000000000000030 [] = .error .sidTooLarge := by decide
/-- The match word of the table's ACCEPT row has seed 0, which R85 makes illegal. -/
theorem test_reject_accept_match_word : decode 0x01 [] = .error .seedOutOfRange := by decide
/-- R83: a payload shorter than LEN, or with a command that has none. -/
theorem test_reject_payload :
    decode 0x00000000000000000000000400020310 [0x00] = .error .payloadLength ∧
    decode 0x00000000000000000000000000000031 [0x00] = .error .payloadLength := by decide
/-- R82: an SID field of all ones, the register value of `NONE`, is in no legal command. -/
theorem test_reject_none_sid : decode 0x00000000ffffffffffffffff00000030 [] = .error .sidTooLarge := by decide
theorem test_decode_table_word :
    decodeTableWord 128 0x00000000000000000000000704b00011 = some (.requestSend 7 1200) ∧
    decodeTableWord 128 0x00000000000000000000000000020020 = some (.deliverDatagram [0, 0]) := by decide

/-! One step per command. -/

/-- R170's example, with the parameters of section 1. -/
theorem test_accept :
    (after (exec (.accept 0 true false 0x29) (opens 3 blank))).session.batonOut = some 0x29 ∧
    (after (exec (.accept 0 true false 0x29) (opens 3 blank))).session.turnCount = 1 ∧
    (after (exec (.accept 0 true false 0x29) (opens 3 blank))).session.activeSend = some 3 ∧
    (after (exec (.accept 0 true false 0x29) (opens 3 blank))).log =
      [.openUni (some 3), .writeHeader 3 [0x40, 0x54, 0x00], .markActive 3 0] := by decide
/-- DSP-03: no credit. -/
theorem test_accept_no_credit :
    (after (exec (.accept 0 true false 0x80) blank)).log =
      [.openUni none, .sendClose 0 .insufficientStreamCredit [1]] ∧
    (after (exec (.accept 0 true false 0x80) blank)).session.turnCount = 0 := by decide
/-- R172's example. -/
theorem test_connect : si.session.role = some .initiator ∧ si.session.state = .ready ∧ si.session.turnCount = 0 ∧
    si.session.batonOut = none ∧ si.log = [] := by decide
/-- CLS-08. -/
theorem test_deregister_responder :
    (after (exec .deregister sr)).session = .reset ∧ (after (exec .deregister sr)).table = [] := by decide
/-- CLS-07. -/
theorem test_deregister_initiator :
    (after (exec .deregister si)).session.state = .closed ∧ (after (exec .deregister si)).table = [] ∧
    (after (exec .deregister si)).log = [] := by decide
/-- DEC-01. -/
theorem test_deliver_bytes :
    replied.session.batonIn = some 0x2a ∧ replied.dec.phase = .done ∧ replied.session.state = .sent ∧
    replied.session.turnCount = 2 ∧ (replied.record 3).map (·.finReceived) = some true ∧
    replied.log = [.openBidi (some 4), .writeHeader 4 [0x40, 0x41, 0x00], .markActive 4 0] := by decide
/-- DEC-07: a byte after the baton. -/
theorem test_deliver_bytes_violation :
    (after (exec (.deliverBytes 3 false false false [0x00, 0x2a, 0x00]) si)).session.batonIn = some 0x2a ∧
    (after (exec (.deliverBytes 3 false false false [0x00, 0x2a, 0x00]) si)).session.turnCount = 0 ∧
    (after (exec (.deliverBytes 3 false false false [0x00, 0x2a, 0x00]) si)).log = [.sendClose 0 .malformed [2]] := by
  decide
/-- ENC-03. -/
theorem test_request_send :
    begun.reply = some { outcome := .ok, bytes := [0x3f], fin := false } ∧
    (after (exec (.requestSend 3 64) begun)).reply =
      some { outcome := .ok, bytes := List.replicate 63 0 ++ [0x10], fin := true } ∧
    (after (exec (.requestSend 3 64) begun)).session.state = .sent := by decide +kernel
/-- ENC-07. -/
theorem test_request_send_two_byte_prefix :
    (after (exec (.requestSend 3 3) sr)).reply = some { outcome := .ok, bytes := [0x7f, 0xff, 0x00], fin := false } ∧
    (after (exec (.requestSend 3 3) sr)).enc.paddingSent = 1 := by decide +kernel
/-- DGM-40 and DGM-31. -/
theorem test_deliver_datagram :
    (after (exec (.deliverDatagram [0x01, 0xff, 0x2a]) si)).dgram.lastValue = some 0x2a ∧
    (after (exec (.deliverDatagram [0x02, 0x00, 0x2a]) si)).dgram = si.dgram := by decide
/-- DGM-07, and DGM-01: the offer of one byte is declined. -/
theorem test_request_datagram :
    (after (exec (.requestDatagram 10 100) armed)).reply =
      some { outcome := .ok, bytes := [0x01, 0x00, 0x08], fin := false } ∧
    (after (exec (.requestDatagram 10 100) armed)).dgram.bytesSent = 3 ∧
    (after (exec (.requestDatagram 1 0) armed)).dgram = armed.dgram := by decide
/-- DGM-12: the 2-byte prefix at 67 bytes. -/
theorem test_request_datagram_two_byte_prefix :
    (after (exec (.requestDatagram 67 64) armed)).reply =
      some { outcome := .ok, bytes := [0x40, 0x40] ++ List.replicate 64 0 ++ [0x08], fin := false } := by
  decide +kernel
/-- CLS-02. -/
theorem test_notify_reset_initiator :
    (after (exec (.notifyReset 99) si)).log =
      [.sendClose 0 .allStreamsReset [3], .closeConnection .allStreamsReset] := by decide
/-- CLS-01, before the frame is written. -/
theorem test_notify_reset_responder :
    ((after (exec (.notifyReset 3) sr)).log.drop 3) = [.sendClose 0 .allStreamsReset [3]] := by decide
/-- CLS-03. -/
theorem test_idle_timeout : closed.session.state = .closed ∧ closed.session.closeCode = some .idleTimeout ∧
    closed.log = [.sendClose 0 .idleTimeout [4]] := by decide
/-- R82: the stream-id registers as 64-bit values, `NONE` all ones. -/
theorem test_stream_id_registers :
    State.reset.session.controlStreamIdBits = 0xffffffffffffffff ∧ sr.session.controlStreamIdBits = 0 ∧
    sr.session.activeSendBits = 3 ∧ sr.session.activeRecvBits = 0xffffffffffffffff ∧
    midPad.session.activeRecvBits = 3 ∧ midPad.session.activeSendBits = 0xffffffffffffffff := by decide
/-- R298: P10's end is unfinished and faulted, CLS-03's is good, and the start state of an initiator is unfinished. -/
theorem test_run_ends :
    Unfinished halted ∧ Faulted halted ∧ ¬ GoodEnd halted ∧ GoodEnd closed ∧ ¬ Unfinished closed ∧
    Unfinished si ∧ ¬ Faulted si ∧ GoodEnd blank := by decide
/-- The step takes the delivery, decodes it and runs it (CONNECT's word of section 1.1). -/
theorem test_step_runs_delivery :
    (after (step (delivered 0x602 [] none blank))).session = si.session ∧
    (after (step (delivered 0x602 [] none blank))).inbox = [] := by decide
/-- The step runs the first command after block reset. -/
theorem test_with_fetch_word : (after (step (blank.withFetchWord 128 0x602))).session.state = .ready := by decide

/-! A test of the invariant by evaluation. -/

/-- The parts of the invariant that are evaluated. -/
def coherentCheck (s : State) : Bool :=
  decide (Canonical s) &&
  decide (s.dec.scratchLen ≤ 2 ∧
    (s.dec.paddingExpected = none ↔ s.dec.phase = .idle ∨ s.dec.phase = .len) ∧
    (s.dec.phase = .idle ↔ s.session.activeRecv = none) ∧ (s.dec.phase = .idle → s.dec.scratchLen = 0)) &&
  s.dec.paddingExpected.all (fun e => decide (s.dec.paddingReceived.toNat ≤ e.toNat)) &&
  s.dec.paddingExpected.all (fun e => decide (s.dec.phase = .pad → s.dec.paddingReceived.toNat < e.toNat)) &&
  decide (s.enc.prefixSent ≤ 2 ∧ (s.enc.paddingRequired = none → s.enc.prefixSent = 0 ∧ s.enc.paddingSent = 0)) &&
  s.enc.paddingRequired.all
    (fun p => decide (s.enc.paddingSent.toNat ≤ p.toNat ∧ s.enc.prefixSent = (varint p.toNat).length)) &&
  decide (s.dec.phase = .done → (s.session.activeRecv.bind s.record).map (·.frameDone) = some true) &&
  decide (SessionCoherent s) &&
  decide ((s.session.controlStreamId.bind s.record).map (·.finSent) = some false ∧ s.session.closeCode = none ∧
    s.session.activeRecv ≠ s.session.controlStreamId ∧ s.session.activeSend ≠ s.session.controlStreamId) &&
  s.session.activeRecv.all (fun r => decide (s.record r ≠ none)) &&
  s.session.activeSend.all (fun a => decide ((s.record a).map (·.finSent) = some false)) &&
  decide ((s.dec.phase = .len →
      s.dec.scratchLen = 0 ∨ (s.dec.scratchLen = 1 ∧ (s.dec.scratch.read 0).map vlen = some 2)) ∧
    (s.session.firstBaton ≠ none ∨ s.session.activeSend ≠ none → s.session.batonOut ≠ none))

theorem coherent_of_check {s : State} (h : coherentCheck s = true) : Coherent s := by
  simp only [coherentCheck, Bool.and_eq_true, decide_eq_true_eq] at h
  obtain ⟨⟨⟨⟨⟨⟨⟨⟨⟨⟨⟨hc, hd⟩, he⟩, hp⟩, hn⟩, hq⟩, hf⟩, hs⟩, hl⟩, hr⟩, ha⟩, hb⟩ := h
  exact ⟨hc,
    ⟨hd.1, hd.2.1, hd.2.2.1, hd.2.2.2, forall_mem_of_all he, fun h e hm => forall_mem_of_all hp e hm h,
      fun h => .inl (hf h)⟩,
    ⟨hn.1, hn.2, forall_mem_of_all hq⟩, hs,
    fun _ => ⟨hl.1, hl.2.1, hl.2.2.1, hl.2.2.2, forall_mem_of_all hr, forall_mem_of_all ha, hb.1, hb.2⟩⟩

theorem test_si_coherent : Coherent si := coherent_of_check (by decide)
theorem test_sr_coherent : Coherent sr := coherent_of_check (by decide)
theorem test_mid_pad_coherent : Coherent midPad := coherent_of_check (by decide)
theorem test_replied_coherent : Coherent replied := coherent_of_check (by decide)
theorem test_sr_send_coherent : SendCoherent sr :=
  ⟨forall_mem_of_all (by decide), fun _ => forall_mem_of_all (by decide)⟩
theorem test_replied_send_coherent : SendCoherent replied :=
  ⟨forall_mem_of_all (by decide), fun _ => forall_mem_of_all (by decide)⟩
/-- R134's last clause in a halted and in a closed block whose decoder is in D_DONE. -/
theorem test_done_coherent_after_the_session :
    halted.dec.phase = .done ∧ DecoderCoherent halted ∧
    DecoderCoherent (after (exec .idleTimeout replied)) ∧ (after (exec .idleTimeout replied)).session.state = .closed :=
  ⟨by decide, (coherent_of_check (by decide)).2.1,
    ⟨by decide, by decide, by decide, by decide, forall_mem_of_all (by decide), fun h => absurd h (by decide),
      fun _ => .inl (by decide)⟩, by decide⟩
theorem test_begun_coherent : Coherent begun := coherent_of_check (by decide +kernel)

/-! Witnesses: for each obligation with hypotheses, values that meet them together, one for each clause. -/

theorem witness_DecodeOfEncode :
    (Instr.accept 0x3fffffffffffffff true true 1).WellFormed ∧ (Instr.accept 0 false false 128).WellFormed ∧
    (Instr.deliverBytes 3 true false false [0x00, 0x2a]).WellFormed := by decide
theorem witness_EncodeOfDecode :
    decode 0x00000080000000000000000000000201 [] = .ok (.accept 0 true false 128) ∧
    namedStream (.accept 0 true false 128) = some 0 := by decide
theorem witness_DecodeAgreesWithOpcodeTable :
    (∃ r ∈ opcodeTable, r.op = .accept ∧ r.covers 0x00000080000000000000000000000201 = true) ∧
    decode 0x00000080000000000000000000000201 [] = .ok (.accept 0 true false 128) := by decide

theorem witness_IllegalDescriptor_opcode :
    (delivered 0x04 [] none si).fault = none ∧
    (delivered 0x04 [] none si).inbox = [{ word := 0x04, payload := [], openAnswer := none }] ∧
    IllegalDescriptor 0x04 := ⟨by decide, rfl, .inl fun op => by cases op <;> decide⟩
theorem witness_IllegalDescriptor_reserved : IllegalDescriptor 0x00000000000000000000000300000810 ∧
    IllegalDescriptor 0x00010000000000000000000300000010 :=
  ⟨.inr (.inl (by decide)), .inr (.inr (.inl (by decide)))⟩
theorem witness_IllegalDescriptor_field : IllegalDescriptor 0x000000000000000000000004000a0111 ∧
    IllegalDescriptor 0x000000000000000000000004000a0211 ∧ IllegalDescriptor 0x00000000000000000000000400010030 ∧
    IllegalDescriptor 0x00000000000000000000000400000003 ∧ IllegalDescriptor 0x00000000400000000000000000000030 ∧
    IllegalDescriptor 0x00000001000000000000000300000010 :=
  ⟨.inr (.inr (.inr ⟨.requestSend, by decide, by decide⟩)), .inr (.inr (.inr ⟨.requestSend, by decide, by decide⟩)),
    .inr (.inr (.inr ⟨.notifyReset, by decide, by decide⟩)), .inr (.inr (.inr ⟨.deregister, by decide, by decide⟩)),
    .inr (.inr (.inr ⟨.notifyReset, by decide, by decide⟩)), .inr (.inr (.inr ⟨.deliverBytes, by decide, by decide⟩))⟩
theorem witness_IllegalDescriptor_seed : IllegalDescriptor 0x01 ∧ IllegalDescriptor 0x00000081000000000000000000000001 :=
  ⟨.inr (.inr (.inr ⟨.accept, by decide, by decide⟩)), .inr (.inr (.inr ⟨.accept, by decide, by decide⟩))⟩

theorem witness_VarintRoundTrip : (2 : Nat) ^ 62 - 1 < 2 ^ 62 := by decide
theorem witness_EncoderFrameShapes : (0xff : Byte) ≠ 0 ∧ 1 ≤ 1 ∧ 2 ≤ 2 := by decide
theorem witness_StepRunsTheDecodedCommand :
    (delivered 0x31 [] none si).fault = none ∧
    (delivered 0x31 [] none si).inbox = [{ word := 0x31, payload := [], openAnswer := none }] ∧
    decode 0x31 [] = .ok .idleTimeout := by decide
theorem witness_StepWaitsForACommand : si.fault = none ∧ si.inbox = [] := by decide
theorem witness_HaltedBlockHasNoStep : halted.fault = some .turnOverlap := by decide
theorem witness_GatingRefuses_idle :
    blank.fault = none ∧ Instr.idleTimeout.WellFormed ∧ blank.session.state = .idle ∧
    Instr.idleTimeout.opcode ∉ [Opcode.accept, .connect] := by decide
theorem witness_GatingRefuses_closed :
    closed.fault = none ∧ (Instr.requestSend 4 5).WellFormed ∧ closed.session.state = .closed ∧
    (Instr.requestSend 4 5).opcode ≠ .deregister := by decide
theorem witness_GatingRefuses_created :
    si.fault = none ∧ (Instr.connect 0 true true).WellFormed ∧ si.session.state ≠ .idle ∧
    (Instr.connect 0 true true).opcode ∈ [Opcode.accept, .connect] := by decide
theorem witness_EveryCommandReplies_ok :
    exec .idleTimeout si = .next closed ∧ closed.fault = none ∧
    Instr.idleTimeout.opcode ∉ [Opcode.requestSend, .requestDatagram] := ⟨rfl, by decide, by decide⟩
theorem witness_EveryCommandReplies_datagram :
    exec (.requestDatagram 2 0) armed = .next (after (exec (.requestDatagram 2 0) armed)) ∧
    (after (exec (.requestDatagram 2 0) armed)).fault = none := ⟨rfl, by decide⟩
theorem witness_EveryCommandReplies_fault :
    exec (.deliverBytes 4 true true false [0x00, 0x11]) sr = .next halted ∧ halted.fault ≠ none := ⟨rfl, by decide⟩

/-! Session creation and release. -/

theorem witness_AcceptCreatesAndDispatches :
    (opens 3 blank).fault = none ∧ (opens 3 blank).session.state = .idle ∧ 1 ≤ (128 : Byte).toNat ∧
    (128 : Byte).toNat ≤ 128 ∧ (opens 3 blank).openAnswer = some 3 := by decide
theorem witness_AcceptWithoutCreditCloses :
    blank.fault = none ∧ blank.session.state = .idle ∧ 1 ≤ (1 : Byte).toNat ∧ (1 : Byte).toNat ≤ 128 ∧
    blank.openAnswer = none := by decide
theorem witness_ConnectCreatesInitiator : blank.fault = none ∧ blank.session.state = .idle := by decide
theorem witness_DeregisterReleasesResponder :
    sr.fault = none ∧ sr.session.state ≠ .idle ∧ sr.session.role = some .responder := by decide
theorem witness_DeregisterMarksInitiatorClosed :
    closed.fault = none ∧ closed.session.state ≠ .idle ∧ closed.session.role = some .initiator := by decide

/-! DELIVER_BYTES. -/

/-- `S_I` with the received-byte counter at `n`. -/
def received (n : Counter) : State := si.onSession fun x => { x with streamBytesReceived := n }

theorem witness_StreamChecksOfDelivery_control : Live si ∧ [(0x00 : Byte), 0x2a].length < 2 ^ 16 ∧ HostDutyBroken si 0 true :=
  ⟨by decide, by decide, .inl (by decide)⟩
theorem witness_StreamChecksOfDelivery_localUni : Live sr ∧ HostDutyBroken sr 3 false :=
  ⟨by decide, .inr (.inl ⟨_, rfl, by decide⟩)⟩
theorem witness_StreamChecksOfDelivery_ended : Live replied ∧ HostDutyBroken replied 3 false :=
  ⟨by decide, .inr (.inr (.inl ⟨_, rfl, by decide⟩))⟩
theorem witness_StreamChecksOfDelivery_claimedLocal : Live si ∧ HostDutyBroken si 9 true :=
  ⟨by decide, .inr (.inr (.inr (by decide)))⟩
theorem witness_StreamChecksOfDelivery_unknown : Live si ∧ ¬ HostDutyBroken si 9 false ∧ si.record 9 = none :=
  ⟨by decide, not_hostDutyBroken (by decide), by decide⟩
theorem witness_StreamChecksOfDelivery_known : Live midPad ∧ ¬ HostDutyBroken midPad 3 true ∧ midPad.record 3 ≠ none :=
  ⟨by decide, not_hostDutyBroken (by decide), by decide⟩
theorem witness_ReceivedBytesAreCounted_fits :
    Live (received 0xfffffffffffffffd) ∧ [(0x00 : Byte), 0x2a].length < 2 ^ 16 ∧
    ¬ HostDutyBroken (received 0xfffffffffffffffd) 3 false ∧
    (received 0xfffffffffffffffd).session.streamBytesReceived.toNat + [(0x00 : Byte), 0x2a].length < 2 ^ 64 ∧
    exec (.deliverBytes 3 false false false [0x00, 0x2a]) (opens 4 (received 0xfffffffffffffffd)) =
      .next (after (exec (.deliverBytes 3 false false false [0x00, 0x2a]) (opens 4 (received 0xfffffffffffffffd)))) :=
  ⟨by decide, by decide, not_hostDutyBroken (by decide), by decide, rfl⟩
theorem witness_ReceivedBytesAreCounted_overflows :
    Live (received 0xffffffffffffffff) ∧ ¬ HostDutyBroken (received 0xffffffffffffffff) 3 false ∧
    2 ^ 64 ≤ (received 0xffffffffffffffff).session.streamBytesReceived.toNat + [(0x00 : Byte)].length :=
  ⟨by decide, not_hostDutyBroken (by decide), by decide⟩
theorem witness_PaddingIsConsumed :
    Live midPad ∧ midPad.session.controlStreamId ≠ some 3 ∧ midPad.record 3 = some (newRecord false false) ∧
    midPad.dec.phase = .pad ∧ midPad.session.activeRecv = some 3 ∧ midPad.dec.paddingExpected = some 2 ∧
    midPad.dec.paddingReceived.toNat + [(0x99 : Byte)].length ≤ (2 : PadLen).toNat ∧
    midPad.session.streamBytesReceived.toNat + [(0x99 : Byte)].length < 2 ^ 64 := by decide
theorem witness_WholeFrameRunsTheTurnCheck :
    Live si ∧ si.dec.phase = .idle ∧ si.dec.scratchLen = 0 ∧ ¬ HostDutyBroken si 3 false ∧
    (∀ rec ∈ si.record 3, rec.frameDone = false) ∧ IsFrame [0x02] [0x00, 0x00] ∧ IsFrame [0x40, 0x01] [0xff] ∧
    si.session.streamBytesReceived.toNat + ([0x02] ++ [0x00, 0x00] ++ [(0x2a : Byte)]).length < 2 ^ 64 :=
  ⟨by decide, by decide, by decide, not_hostDutyBroken (by decide), forall_mem_of_all (by decide), by decide, by decide,
    by decide⟩
theorem witness_ByteAfterBatonCloses :
    Live si ∧ Coherent si ∧ si.dec.phase = .idle ∧ ¬ HostDutyBroken si 3 false ∧
    (∀ rec ∈ si.record 3, rec.frameDone = false) ∧ IsFrame [0x00] [] ∧ [(0x00 : Byte)] ≠ [] :=
  ⟨by decide, test_si_coherent, by decide, not_hostDutyBroken (by decide), forall_mem_of_all (by decide), by decide,
    by decide⟩
/-- The state of a frame begun in D_PAD and completed by the two bytes before an extra one (R129). -/
def completed : State :=
  { midPad with
    session := { midPad.session with batonIn := some 0x2a, streamBytesReceived := 5 }
    dec := { midPad.dec with phase := .done, paddingReceived := 2 }
    table := midPad.table.put 3 { newRecord false false with frameDone := true } }
theorem witness_ByteAfterBatonCloses_resumed :
    Live midPad ∧ ¬ HostDutyBroken midPad 3 false ∧ (∀ rec ∈ midPad.record 3, rec.frameDone = false) ∧
    midPad.session.activeRecv = some 3 ∧ [(0x07 : Byte)] ≠ [] ∧
    midPad.session.streamBytesReceived.toNat + ([(0x00 : Byte), 0x2a] ++ [0x07]).length < 2 ^ 64 ∧
    decodeBytes 3 [0x00, 0x2a] false
      (((midPad.knowStream 3 false).onSession fun x => { x with
        streamBytesReceived := BitVec.ofNat 64
          (midPad.session.streamBytesReceived.toNat + ([(0x00 : Byte), 0x2a] ++ [0x07]).length) }).associate 3) =
        .ok completed true ∧
    completed.session.controlStreamId = some 0 ∧ completed.record 0 = some (newRecord true true) :=
  ⟨by decide, not_hostDutyBroken (by decide), forall_mem_of_all (by decide), by decide⟩
theorem witness_LongPrefixCloses :
    Live si ∧ Coherent si ∧ si.dec.phase = .idle ∧ ¬ HostDutyBroken si 3 false ∧
    (∀ rec ∈ si.record 3, rec.frameDone = false) ∧ 0x80 ≤ (0x80 : Byte).toNat ∧ [(0x80 : Byte)].length < 2 ^ 16 :=
  ⟨by decide, test_si_coherent, by decide, not_hostDutyBroken (by decide), forall_mem_of_all (by decide), by decide,
    by decide⟩
theorem witness_UnexpectedStreamCloses_second :
    Live midPad ∧ ¬ HostDutyBroken midPad 7 false ∧ [(0x00 : Byte)] ≠ [] ∧ midPad.session.controlStreamId = some 0 ∧
    midPad.record 0 = some (newRecord true true) ∧ midPad.dec.phase ≠ .idle ∧ midPad.session.activeRecv ≠ some 7 :=
  ⟨by decide, not_hostDutyBroken (by decide), by decide⟩
/-- A frame done on stream 3 whose end has not come, as in DEC-12 before the late FIN. -/
def doneNoFin : State := after (exec (.deliverBytes 3 false false false [0x00, 0x2a]) (opens 4 si))
theorem witness_UnexpectedStreamCloses_done :
    Live doneNoFin ∧ ¬ HostDutyBroken doneNoFin 3 false ∧ doneNoFin.session.controlStreamId = some 0 ∧
    doneNoFin.record 0 = some (newRecord true true) ∧
    ∃ rec, doneNoFin.record 3 = some rec ∧ rec.frameDone = true :=
  ⟨by decide, not_hostDutyBroken (by decide), by decide, by decide, _, rfl, by decide⟩
/-- The state of DEC-08 after its two bytes, before the end-of-stream is looked at. -/
def beforeBaton : State := { midPad with dec := { midPad.dec with phase := .baton, scratch := [(0, 0x01)], paddingExpected := some 1 }, reply := si.reply }
theorem witness_FinBeforeBatonCloses :
    Live si ∧ ¬ HostDutyBroken si 3 false ∧ (∀ rec ∈ si.record 3, rec.frameDone = false) ∧ si.dec.phase = .idle ∧
    decodeBytes 3 [0x01, 0x00] false
      (((si.knowStream 3 false).onSession fun x => { x with streamBytesReceived := BitVec.ofNat 64 2 }).associate 3) =
        .ok beforeBaton false ∧
    beforeBaton.dec.phase ≠ .done ∧ beforeBaton.session.controlStreamId = some 0 ∧
    beforeBaton.record 0 = some (newRecord true true) :=
  ⟨by decide, not_hostDutyBroken (by decide), forall_mem_of_all (by decide), by decide, rfl, by decide⟩
theorem witness_EmptyRangeRules_records :
    Live si ∧ ¬ HostDutyBroken si 3 false ∧ ¬ (si.session.activeRecv = some 3 ∧ si.dec.phase ≠ .done) :=
  ⟨by decide, not_hostDutyBroken (by decide), by decide⟩
theorem witness_EmptyRangeRules_closes :
    Live midPad ∧ ¬ HostDutyBroken midPad 3 false ∧ midPad.session.activeRecv = some 3 ∧ midPad.dec.phase ≠ .done ∧
    midPad.session.controlStreamId = some 0 ∧ midPad.record 0 = some (newRecord true true) :=
  ⟨by decide, not_hostDutyBroken (by decide), by decide⟩
theorem witness_SplitInvariance :
    Live (opens 4 si) ∧ (opens 4 si).dec.phase = .idle ∧ IsFrame [0x02] [0x00, 0x00] ∧
    (∀ r ∈ [[(0x02 : Byte)], [0x00], [0x00], [0x2a]], r ≠ []) ∧
    [[(0x02 : Byte)], [0x00], [0x00], [0x2a]].flatten = [0x02] ++ [0x00, 0x00] ++ [0x2a] ∧
    (opens 4 si).session.streamBytesReceived.toNat + 4 < 2 ^ 64 := by decide
theorem witness_SplitInvariance_invariant :
    Coherent (opens 4 si) ∧ ∀ rec ∈ (opens 4 si).record 3, rec.frameDone = false :=
  ⟨coherent_of_check (by decide), forall_mem_of_all (by decide)⟩
theorem witness_DeliveryCountsTwoTurnsOrNone_two :
    Live (opens 4 si) ∧ exec (.deliverBytes 3 true false false [0x00, 0x2a]) (opens 4 si) = .next replied ∧
    Live replied ∧ replied.session.turnCount = 2 := ⟨by decide, rfl, by decide, by decide⟩
theorem witness_DeliveryCountsTwoTurnsOrNone_none :
    Live si ∧ exec (.deliverBytes 3 false false false [0x02, 0x00]) si = .next midPad ∧ Live midPad :=
  ⟨by decide, rfl, by decide⟩

/-! REQUEST_SEND. -/

theorem witness_NothingToSend :
    (Live si ∧ si.session.activeSend = none) ∧ (Live sr ∧ sr.session.activeSend ≠ some 7) ∧
    (Live sr ∧ sr.session.activeSend = some 3 ∧ (0 : BitVec 16) = 0) := by decide
theorem witness_PaddingDecision_first :
    Live sr ∧ sr.session.activeSend = some 3 ∧ (1 : BitVec 16) ≠ 0 ∧ sr.session.batonOut = some 0x10 ∧
    exec (.requestSend 3 1) sr = .next begun ∧ sr.enc.paddingRequired = none := ⟨by decide, by decide, by decide, by decide, rfl, by decide⟩
theorem witness_PaddingDecision_later :
    Live begun ∧ begun.session.activeSend = some 3 ∧ begun.session.batonOut = some 0x10 ∧
    exec (.requestSend 3 2) begun = .next (after (exec (.requestSend 3 2) begun)) ∧
    begun.enc.paddingRequired = some 0x3f := ⟨by decide +kernel, by decide +kernel, by decide +kernel, rfl, by decide +kernel⟩
theorem witness_PartialSendWritesTheNextBytes :
    Live begun ∧ EncoderCoherent begun ∧ begun.session.activeSend = some 3 ∧ (63 : BitVec 16) ≠ 0 ∧
    begun.session.batonOut = some 0x10 ∧
    (0x3f : PadLen) = begun.enc.paddingRequired.getD (choosePadding 0x10 (63 : BitVec 16).toNat) ∧
    begun.enc.written + (63 : BitVec 16).toNat < (frame (0x3f : PadLen).toNat 0x10).length :=
  ⟨by decide +kernel, test_begun_coherent.2.2.1, by decide +kernel, by decide, by decide +kernel, by decide +kernel,
    by decide +kernel⟩
theorem witness_PartialSendWritesTheNextBytes_first :
    Live sr ∧ EncoderCoherent sr ∧ sr.session.activeSend = some 3 ∧ sr.session.batonOut = some 0x10 ∧
    (0x3f : PadLen) = sr.enc.paddingRequired.getD (choosePadding 0x10 (1 : BitVec 16).toNat) ∧
    sr.enc.written + (1 : BitVec 16).toNat < (frame (0x3f : PadLen).toNat 0x10).length :=
  ⟨by decide, test_sr_coherent.2.2.1, by decide +kernel⟩
theorem witness_FinalSendCompletesTheFrame :
    Live begun ∧ EncoderCoherent begun ∧ begun.session.activeSend = some 3 ∧ (64 : BitVec 16) ≠ 0 ∧
    begun.session.batonOut = some 0x10 ∧
    (0x3f : PadLen) = begun.enc.paddingRequired.getD (choosePadding 0x10 (64 : BitVec 16).toNat) ∧
    begun.record 3 = some (newRecord false true) ∧
    (frame (0x3f : PadLen).toNat 0x10).length ≤ begun.enc.written + (64 : BitVec 16).toNat :=
  ⟨by decide +kernel, test_begun_coherent.2.2.1, by decide +kernel, by decide, by decide +kernel, by decide +kernel,
    by decide +kernel, by decide +kernel⟩
theorem witness_OffersConcatenateToTheFrame :
    Live sr ∧ Coherent sr ∧ sr.session.activeSend = some 3 ∧ sr.session.batonOut = some 0x10 ∧
    sr.enc.paddingRequired = none := ⟨by decide, test_sr_coherent, by decide⟩

/-! The turn check and the dispatcher. -/

/-- `S_I1`'s registers as the turn check meets them: baton `b` received on stream 7, with the given record. -/
def arrived (b : Byte) (rec : StreamRecord) : State :=
  ((replied.putRecord 7 rec).onSession fun x =>
    { x with batonIn := some b, activeRecv := some 7, activeSend := none })

theorem witness_ZeroBatonClosesWithSuccess :
    (arrived 0 (newRecord true false)).session.batonIn = some 0 ∧
    (arrived 0 (newRecord true false)).session.activeRecv = some 7 ∧
    (arrived 0 (newRecord true false)).record 7 = some (newRecord true false) ∧
    (arrived 0 (newRecord true false)).session.controlStreamId = some 0 ∧ (0 : StreamId) ≠ 7 ∧
    (arrived 0 (newRecord true false)).record 0 = some (newRecord true true) ∧
    (arrived 0 (newRecord false false)).record 7 = some (newRecord false false) := by decide
theorem witness_SequenceViolationCloses :
    (arrived 0x2d (newRecord false false)).session.batonIn = some 0x2d ∧
    (arrived 0x2d (newRecord false false)).session.activeRecv = some 7 ∧ (0x2d : Byte) ≠ 0 ∧
    (arrived 0x2d (newRecord false false)).session.firstBaton = some 0x2a ∧
    (arrived 0x2d (newRecord false false)).session.batonOut = some 0x2b ∧
    (0x2d : Byte).toNat ≠ ((0x2b : Byte).toNat + 1) % 256 ∧
    (arrived 0x2d (newRecord false false)).session.controlStreamId = some 0 ∧
    (arrived 0x2d (newRecord false false)).record 0 = some (newRecord true true) := by decide
theorem witness_AcceptedTurnUpdates :
    (arrived 0x2c (newRecord false false)).session.batonIn = some 0x2c ∧
    (arrived 0x2c (newRecord false false)).session.activeRecv = some 7 ∧ (0x2c : Byte) ≠ 0 ∧
    (arrived 0x2c (newRecord false false)).session.turnsRequired = some 8 ∧
    (arrived 0x2c (newRecord false false)).session.role = some .initiator ∧
    (arrived 0x2c (newRecord false false)).session.batonOut = some 0x2b ∧
    (0x2c : Byte).toNat = ((0x2b : Byte).toNat + 1) % 256 ∧
    (arrived 0x2c (newRecord false false)).session.turnCount.toNat + 1 < 2 ^ 64 := by decide
theorem witness_AcceptedTurnUpdates_overflow :
    ((arrived 0x2c (newRecord false false)).onSession fun x =>
      { x with turnCount := 0xffffffffffffffff, firstBaton := none }).session.firstBaton = none ∧
    ((arrived 0x2c (newRecord false false)).onSession fun x =>
      { x with turnCount := 0xffffffffffffffff, firstBaton := none }).session.turnCount.toNat + 1 = 2 ^ 64 := by decide
theorem witness_DispatchRoutes :
    (newRecord false false).bidi = false ∧ (newRecord true false).bidi = true ∧ (newRecord true false).isLocal = false ∧
    (newRecord true true).bidi = true ∧ (newRecord true true).isLocal = true := by decide
theorem witness_DispatchOpensAndArms :
    (opens 8 (arrived 1 (newRecord false false))).session.activeSend = none ∧
    (opens 8 (arrived 1 (newRecord false false))).record 7 = some (newRecord false false) ∧
    (opens 8 (arrived 1 (newRecord false false))).session.controlStreamId = some 0 ∧
    selectRoute (opens 8 (arrived 1 (newRecord false false))).cfg.bidiDispatch (some (newRecord false false)) = .newBidi ∧
    selectRoute (opens 8 (arrived 1 (newRecord true false))).cfg.bidiDispatch (some (newRecord true false)) = .newUni ∧
    (opens 8 (arrived 1 (newRecord false false))).openAnswer = some 8 ∧
    (opens 8 (arrived 1 (newRecord false false))).session.turnCount.toNat + 1 < 2 ^ 64 ∧
    (0xffffffffffffffff : Counter).toNat + 1 = 2 ^ 64 := by decide
theorem witness_DispatchOpenFailureCloses :
    ({ arrived 1 (newRecord false false) with openAnswer := none }).session.activeSend = none ∧
    ({ arrived 1 (newRecord false false) with openAnswer := none }).record 7 = some (newRecord false false) ∧
    selectRoute params.bidiDispatch (some (newRecord false false)) = .newBidi ∧
    ({ arrived 1 (newRecord false false) with openAnswer := none }).openAnswer = none ∧
    ({ arrived 1 (newRecord false false) with openAnswer := none }).session.controlStreamId = some 0 ∧
    ({ arrived 1 (newRecord false false) with openAnswer := none }).record 0 = some (newRecord true true) := by decide
theorem witness_DispatchOnTheSameStream :
    (arrived 1 (newRecord true true)).session.activeSend = none ∧
    (arrived 1 (newRecord true true)).record 7 = some (newRecord true true) ∧
    selectRoute (arrived 1 (newRecord true true)).cfg.bidiDispatch (some (newRecord true true)) = .same ∧
    (newRecord true true).finSent = false ∧ (arrived 1 (newRecord true true)).session.turnCount.toNat + 1 < 2 ^ 64 ∧
    (arrived 1 { newRecord true true with finSent := true }).record 7 = some { newRecord true true with finSent := true } ∧
    selectRoute params.bidiDispatch (some { newRecord true true with finSent := true }) = .same ∧
    ((arrived 1 (newRecord true true)).onSession fun x =>
      { x with turnCount := 0xffffffffffffffff }).session.turnCount.toNat + 1 = 2 ^ 64 := by decide
theorem witness_DispatchOverlapFaults :
    sr.session.activeSend ≠ none ∧ (opens 4 si).session.activeSend = none ∧ (opens 4 si).fault = none ∧
    dispatchTurn none (opens 4 si) = .next (after (dispatchTurn none (opens 4 si))) :=
  ⟨by decide, by decide, by decide, rfl⟩

/-! Closing. -/

theorem witness_IdleTimeoutCloses :
    Live si ∧ si.session.controlStreamId = some 0 ∧ si.record 0 = some (newRecord true true) := by decide
theorem witness_NotifyResetCloses :
    Live si ∧ si.session.role = some .initiator ∧ si.session.controlStreamId = some 0 ∧
    si.record 0 = some (newRecord true true) ∧ Live sr ∧ sr.session.role = some .responder ∧
    sr.session.controlStreamId = some 0 ∧ sr.record 0 = some (newRecord true false) := by decide
theorem witness_CloseIsIdempotent :
    closed.session.controlStreamId = some 0 ∧ closed.record 0 = some { newRecord true true with finSent := true } := by
  decide
theorem witness_AtMostOneCloseMessage : Coherent si ∧ exec .idleTimeout si = .next closed := ⟨test_si_coherent, rfl⟩
theorem witness_ClosedIsAbsorbing :
    closed.session.state = .closed ∧ exec .deregister closed = .next (after (exec .deregister closed)) :=
  ⟨by decide, rfl⟩

/-! Datagrams. -/

/-- `armed` with its two sent-datagram counters at `n` and `m`. -/
def counted (n m : Counter) : State := armed.onDgram fun g => { g with sent := n, bytesSent := m }
/-- An offer of 2 bytes takes the datagram 00 08. -/
theorem witness_RequestDatagramAnswers :
    Live (counted 0xfffffffffffffffe 0xfffffffffffffffd) ∧
    (counted 0xfffffffffffffffe 0xfffffffffffffffd).dgram.ready = true ∧
    (counted 0xfffffffffffffffe 0xfffffffffffffffd).dgram.nextValue = some 8 ∧ 2 ≤ (2 : BitVec 16).toNat ∧
    [(0x00 : Byte), 0x08] = varint ((5 : BitVec 16).toNat % (pmax (min (2 : BitVec 16).toNat 1536) + 1)) ++
      List.replicate ((5 : BitVec 16).toNat % (pmax (min (2 : BitVec 16).toNat 1536) + 1)) 0x00 ++ [0x08] ∧
    (0xfffffffffffffffe : Counter).toNat + 1 < 2 ^ 64 ∧
    (0xfffffffffffffffd : Counter).toNat + [(0x00 : Byte), 0x08].length < 2 ^ 64 ∧
    Live si ∧ si.dgram.ready = false ∧ (1 : BitVec 16).toNat < 2 := by decide
theorem witness_RequestDatagramAnswers_overflows :
    Live (counted 0 0xfffffffffffffffe) ∧
    2 ^ 64 ≤ (counted 0 0xfffffffffffffffe).dgram.bytesSent.toNat + [(0x00 : Byte), 0x08].length ∧
    (counted 0xffffffffffffffff 0).dgram.sent.toNat + 1 = 2 ^ 64 := by decide
theorem witness_PmaxIsTheLargestPadding :
    2 ≤ 66 ∧ 66 ≤ 1536 ∧ pmax 66 < 64 ∧ 67 ≤ 1536 ∧ (1533 : BitVec 16).toNat ≤ pmax (dgramCap 1536) := by decide
theorem witness_WellFormedDatagramIsRecorded :
    Live si ∧ IsFrame [0x01] [0xff] ∧ IsFrame [0x40, 0x01] [0x00] ∧ si.dgram.received.toNat + 1 < 2 ^ 64 ∧
    si.dgram.bytesReceived.toNat + ([0x01] ++ [0xff] ++ [(0x2a : Byte)]).length < 2 ^ 64 := by decide
/-- `S_I` with its two received-datagram counters at `n` and `m`. -/
def heard (n m : Counter) : State := si.onDgram fun g => { g with received := n, bytesReceived := m }
theorem witness_WellFormedDatagramIsRecorded_overflows :
    Live (heard 0 0xfffffffffffffffd) ∧ (heard 0 0xfffffffffffffffd).dgram.received.toNat + 1 < 2 ^ 64 ∧
    2 ^ 64 ≤ (heard 0 0xfffffffffffffffd).dgram.bytesReceived.toNat + ([0x01] ++ [0xff] ++ [(0x2a : Byte)]).length ∧
    Live (heard 0xffffffffffffffff 0) ∧ (heard 0xffffffffffffffff 0).dgram.received.toNat + 1 = 2 ^ 64 := by decide
theorem witness_MalformedDatagramIsDiscarded :
    Live si ∧ [(0x00 : Byte)].length < 2 ^ 16 ∧
    ∀ (pfx padding : List Byte) (v : Byte), IsFrame pfx padding → [(0x00 : Byte)] ≠ pfx ++ padding ++ [v] := by
  refine ⟨by decide, by decide, fun pfx padding v h e => ?_⟩
  have hl := congrArg List.length e
  cases pfx with
  | nil => exact absurd h.1.1 (by simp)
  | cons b bs => simp at hl
theorem witness_SentDatagramIsAccepted : 2 ≤ (2 : BitVec 16).toNat := by decide
theorem witness_DatagramIsolation_command :
    isDatagramCommand (.requestDatagram 2 0) = true ∧
    exec (.requestDatagram 2 0) armed = .next (after (exec (.requestDatagram 2 0) armed)) ∧
    (after (exec (.requestDatagram 2 0) armed)).fault = none := ⟨by decide, rfl, by decide⟩
theorem witness_DatagramIsolation_run :
    runCommands [(.deliverDatagram [0x00, 0x07], none), (.idleTimeout, none)] si =
      .next (after (runCommands [(.deliverDatagram [0x00, 0x07], none), (.idleTimeout, none)] si)) ∧
    (after (runCommands [(.deliverDatagram [0x00, 0x07], none), (.idleTimeout, none)] si)).fault = none :=
  ⟨rfl, by decide⟩

/-! Invariants. -/

/-- `S_I` with DEC-01's delivery in the inbox and its open answered 4. -/
def pending : State := delivered 0x00000000000000000000000300020110 [0x00, 0x2a] (some 4) si

theorem witness_StepKeepsCoherent :
    Coherent pending ∧ ContractKept pending ∧ step pending = .next (after (step pending)) ∧
    (after (step pending)).session.turnCount = 2 := by
  refine ⟨coherent_of_check (by decide), ?_, rfl, by decide⟩
  rintro _ ⟨⟩ i hi a ha
  obtain rfl : i = .deliverBytes 3 true false false [0x00, 0x2a] := by
    have h : (decode 0x00000000000000000000000300020110 [0x00, 0x2a]).toOption =
      some (.deliverBytes 3 true false false [0x00, 0x2a]) := by decide
    exact (Option.some.inj (h.symm.trans hi)).symm
  obtain rfl : a = 4 := (Option.some.inj ha).symm
  exact ⟨by decide, by decide⟩
theorem witness_StepKeepsCoherent_sends : SendCoherent pending ∧ Coherent replied ∧ SendCoherent replied :=
  ⟨⟨forall_mem_of_all (by decide), fun _ => forall_mem_of_all (by decide)⟩, test_replied_coherent,
    test_replied_send_coherent⟩
theorem witness_CoherentBlockNeverSticks : Coherent replied ∧ replied.fault = none :=
  ⟨test_replied_coherent, by decide⟩
theorem witness_StepKeepsCanonicalForm : Canonical pending ∧ step pending = .next (after (step pending)) :=
  ⟨by decide, rfl⟩
theorem witness_OutputLogOnlyGrows : exec .idleTimeout si = .next closed := rfl
theorem witness_ReadOnlyRegisters :
    exec .idleTimeout si = .next closed ∧ si.session.state ≠ .idle ∧
    ¬ (Instr.idleTimeout = .deregister ∧ si.session.role = some .responder) := ⟨rfl, by decide, by decide⟩
theorem witness_QueuedBatonIsStable :
    inSession sr.session.state = true ∧ sr.session.activeSend ≠ none ∧ exec (.requestSend 3 1) sr = .next begun ∧
    begun.fault = none ∧ begun.session.activeSend = sr.session.activeSend :=
  ⟨by decide, by decide, rfl, by decide +kernel, by decide +kernel⟩

end Sys2Proof.Tests
end

section
/-! PROOFS. The family of spec/30_encoding.md: what the decoder answers to an illegal descriptor (R85), and the frames
the encoder produces (R104). -/

namespace Sys2Proof

/-! The columns of R81's table: which opcodes use each field. -/

theorem usageOf_fin (op : Opcode) : (usageOf op).fin = true ↔ op ∈ [.deliverBytes] := by
  cases op <;> decide

theorem usageOf_attrs (op : Opcode) : (usageOf op).attrs = true ↔ op ∈ [.accept, .connect, .deliverBytes] := by
  cases op <;> decide

theorem usageOf_len (op : Opcode) :
    (usageOf op).len = true ↔ op ∈ [.deliverBytes, .requestSend, .deliverDatagram, .requestDatagram] := by
  cases op <;> decide

theorem usageOf_sid (op : Opcode) :
    (usageOf op).sid = true ↔ op ∈ [.accept, .connect, .deliverBytes, .requestSend, .notifyReset] := by
  cases op <;> decide

theorem usageOf_arg (op : Opcode) : (usageOf op).arg = true ↔ op ∈ [.accept, .requestDatagram] := by
  cases op <;> decide

/-! The checks the decoder makes on the fields, as propositions. -/

theorem reservedZero_iff (f : Fields) : reservedZero f = true ↔ f.rsv0 = 0 ∧ f.rsv1 = 0 := by
  simp [reservedZero]

theorem unusedZero_iff (u : Usage) (f : Fields) :
    unusedZero u f = true ↔
      (¬ u.fin = true → f.fin = 0) ∧ (¬ u.attrs = true → f.bidi = 0 ∧ f.isLocal = 0) ∧
      (¬ u.len = true → f.len = 0) ∧ (¬ u.sid = true → f.sid = 0) ∧ (¬ u.arg = true → f.arg = 0) := by
  simp only [unusedZero, Bool.and_eq_true, Bool.or_eq_true, beq_iff_eq, or_iff_not_imp_left, and_assoc]

theorem sidFits_iff (u : Usage) (f : Fields) : sidFits u f = true ↔ (u.sid = true → f.sid.toNat < 2 ^ 62) := by
  simp only [sidFits, Bool.or_eq_true, Bool.not_eq_true', decide_eq_true_eq, ← Bool.not_eq_true, ← imp_iff_not_or]

theorem seedFits_accept (f : Fields) :
    seedFits .accept f = true ↔
      f.arg.toNat < 256 ∧ 1 ≤ (f.arg.setWidth 8).toNat ∧ (f.arg.setWidth 8).toNat ≤ 128 := by
  simp [seedFits, seedLegal, Config.seedMin, Config.seedMax]

/-! Parts of a field: `W[95:94]`, the two top bits of SID, and the two bytes of ARG (R81, R82). -/

/-- A field of `k + n` bits whose value needs only `k` of them has its top `n` bits zero. -/
theorem extractLsb'_top_eq_zero {width start k n : Nat} {w : BitVec width}
    (h : (w.extractLsb' start (k + n)).toNat < 2 ^ k) : w.extractLsb' (start + k) n = 0 := by
  apply BitVec.eq_of_toNat_eq
  rw [BitVec.extractLsb'_toNat] at h
  calc (w.extractLsb' (start + k) n).toNat
      = (w.toNat >>> start) / 2 ^ k % 2 ^ n := by
        rw [BitVec.extractLsb'_toNat, Nat.shiftRight_add, Nat.shiftRight_eq_div_pow _ k]
    _ = (w.toNat >>> start) % 2 ^ (k + n) / 2 ^ k := by rw [Nat.pow_add, Nat.mod_mul_right_div_self]
    _ = 0 := Nat.div_eq_of_lt h
    _ = (0 : BitVec n).toNat := BitVec.toNat_zero.symm

/-- A SID below 2^62 has `W[95:94]` zero (R82). -/
theorem sid_top_eq_zero {w : Descriptor} (h : (fieldsOf w).sid.toNat < 2 ^ 62) : w.extractLsb' 94 2 = 0 :=
  extractLsb'_top_eq_zero (start := 32) (k := 62) h

/-- An ARG below 256 has `ARG[15:8]` zero (R81). -/
theorem arg_high_eq_zero {w : Descriptor} (h : (fieldsOf w).arg.toNat < 256) : w.extractLsb' 104 8 = 0 :=
  extractLsb'_top_eq_zero (start := 96) (k := 8) h

/-- The seed is `ARG[7:0]` (R81). -/
theorem setWidth_arg (w : Descriptor) : (fieldsOf w).arg.setWidth 8 = w.extractLsb' 96 8 :=
  BitVec.setWidth_extractLsb'_of_le (by decide)

/-! Legal and illegal descriptors. -/

/-- The fields pass every check the decoder makes on a descriptor of opcode `op`, the payload's length left aside. -/
structure FieldsLegal (op : Opcode) (f : Fields) : Prop where
  reserved : reservedZero f = true
  unused : unusedZero (usageOf op) f = true
  sid : sidFits (usageOf op) f = true
  seed : seedFits op f = true

/-- Where the fields are legal for no opcode, decoding rejects the descriptor itself, whatever payload came with it. -/
theorem decode_error_of_not_legal {w : Descriptor}
    (h : ∀ op, opcodeOf (fieldsOf w).opc = some op → ¬ FieldsLegal op (fieldsOf w)) (payload : List Byte) :
    ∃ why, decode w payload = .error why ∧ why ≠ .payloadLength := by
  unfold decode
  cases hop : opcodeOf (fieldsOf w).opc with
  | none => exact ⟨.unknownOpcode, rfl, by decide⟩
  | some op =>
    by_cases hr : reservedZero (fieldsOf w) = true
    · by_cases hu : unusedZero (usageOf op) (fieldsOf w) = true
      · by_cases hs : sidFits (usageOf op) (fieldsOf w) = true
        · have hseed : ¬ seedFits op (fieldsOf w) = true := fun hseed => h op hop ⟨hr, hu, hs, hseed⟩
          exact ⟨.seedOutOfRange, by simp [hr, hu, hs, hseed], by decide⟩
        · exact ⟨.sidTooLarge, by simp [hr, hu, hs], by decide⟩
      · exact ⟨.unusedNonZero, by simp [hr, hu], by decide⟩
    · exact ⟨.reservedNonZero, by simp [hr], by decide⟩

end Sys2Proof

namespace Sys2Proof.Machine

/-- R85's conditions leave no opcode for which the decoder's checks pass. -/
theorem IllegalDescriptor.not_legal {w : Descriptor} (h : IllegalDescriptor w) (op : Opcode)
    (hop : opcodeOf (fieldsOf w).opc = some op) : ¬ FieldsLegal op (fieldsOf w) := by
  rintro ⟨hres, hunused, hsid, hseed⟩
  have hvalue : op.value = w.extractLsb' 0 8 := value_of_opcodeOf hop
  obtain ⟨hrsv0, hrsv1⟩ := (reservedZero_iff _).1 hres
  obtain ⟨hfin, hattrs, hlen, hsid0, harg⟩ := (unusedZero_iff _ _).1 hunused
  rcases h with hopc | h | h | ⟨op', hop', h⟩
  · exact hopc op hvalue.symm
  · exact h hrsv0
  · exact h hrsv1
  · obtain rfl : op' = op := by
      have hname : opcodeOf op'.value = some op := (congrArg opcodeOf hop').symm.trans hop
      simpa using hname
    rcases h with ⟨hu, h⟩ | ⟨hu, h⟩ | ⟨hu, h⟩ | ⟨hu, h⟩ | ⟨hu, h⟩ | ⟨hu, h⟩ | ⟨rfl, h⟩
    · exact h (hfin (mt (usageOf_fin _).1 hu))
    · obtain ⟨hbidi, hlocal⟩ := hattrs (mt (usageOf_attrs _).1 hu)
      exact h.elim (· hbidi) (· hlocal)
    · exact h (hlen (mt (usageOf_len _).1 hu))
    · exact h (hsid0 (mt (usageOf_sid _).1 hu))
    · exact h (sid_top_eq_zero ((sidFits_iff _ _).1 hsid ((usageOf_sid _).2 hu)))
    · exact h (harg (mt (usageOf_arg _).1 hu))
    · obtain ⟨hhigh, hmin, hmax⟩ := (seedFits_accept _).1 hseed
      rw [setWidth_arg] at hmin hmax
      rcases h with h | h | h
      · exact h (arg_high_eq_zero hhigh)
      · omega
      · omega

/-- Every rejection but the one about the payload is answered ERR_ILLEGAL (R85). -/
theorem rejectDelivery_descriptor {why : Reject} (h : why ≠ .payloadLength) (s : State) :
    rejectDelivery why s = answer .errIllegal s := by
  cases why with
  | payloadLength => exact absurd rfl h
  | unknownOpcode | reservedNonZero | unusedNonZero | sidTooLarge | seedOutOfRange => rfl

/-- The step takes the oldest delivery out of the inbox and, where it decodes to no command, rejects it. -/
theorem step_of_decode_error {s : State} {d : Delivery} {rest : List Delivery} {why : Reject}
    (hf : s.fault = none) (hin : s.inbox = d :: rest) (hd : decode d.word d.payload = .error why) :
    step s = rejectDelivery why { s with inbox := rest, openAnswer := d.openAnswer } := by
  have hfetch : fetch s = some (d, { s with inbox := rest, openAnswer := d.openAnswer }) := by simp only [fetch, hin]
  simp only [step, hf, hfetch, hd]

/-- Settles O5: the decoder rejects the descriptor by one of the five checks answered ERR_ILLEGAL, and the reply is the
only field the answer writes. -/
theorem illegalDescriptorChangesNothing : Obligations.IllegalDescriptorChangesNothing := by
  intro s d rest hf hin hill
  obtain ⟨why, hd, hwhy⟩ := decode_error_of_not_legal hill.not_legal d.payload
  rw [step_of_decode_error hf hin hd, rejectDelivery_descriptor hwhy]
  rfl

/-! The frames of R104. -/

theorem choosePadding_zero (m : Nat) : choosePadding 0 m = 0 := rfl

theorem choosePadding_one {b : Byte} (hb : b ≠ 0) : choosePadding b 1 = 0x3F := by
  rw [choosePadding, if_neg hb, if_pos rfl]
  rfl

theorem choosePadding_two_le {b : Byte} {m : Nat} (hb : b ≠ 0) (hm : 2 ≤ m) : choosePadding b m = 0x3FFF := by
  have hm1 : m ≠ 1 := by omega
  rw [choosePadding, if_neg hb, if_neg hm1]
  rfl

/-- A frame is its padding length, its padding and the baton (R103). -/
theorem length_frame (p : Nat) (b : Byte) : (frame p b).length = (varint p).length + p + 1 := by
  simp only [frame, List.length_append, List.length_replicate, List.length_singleton]

/-! The three padding lengths encoded (R102): none, the largest value of one byte, and the largest of two. -/

theorem varint_zero : varint 0 = [0x00] := by decide
theorem varint_pad1bMax : varint 63 = [0x3F] := by decide
theorem varint_pad2bMax : varint 16383 = [0x7F, 0xFF] := by decide

/-- Settles O7: the padding choice fixes the encoded length, one case for each row of R104. -/
theorem encoderFrameShapes : Obligations.EncoderFrameShapes := by
  refine ⟨fun m _ => ?zeroBaton, fun b hb => ?oneByteOffer, fun b m hb hm => ?largerOffer⟩
  case zeroBaton =>
    rw [choosePadding_zero]
    rfl
  case oneByteOffer =>
    have hp : (choosePadding b 1).toNat = 63 := by rw [choosePadding_one hb]; rfl
    rw [hp, length_frame, varint_pad1bMax, frame, varint_pad1bMax]
    exact ⟨rfl, rfl⟩
  case largerOffer =>
    have hp : (choosePadding b m).toNat = 16383 := by rw [choosePadding_two_le hb hm]; rfl
    rw [hp, length_frame, varint_pad2bMax, frame, varint_pad2bMax]
    exact ⟨rfl, rfl⟩

end Sys2Proof.Machine
end

section
/-! PROOFS. The family of spec/40_decoder.md: the checks of a delivery (R121), the received-byte counter (R122), the
padding (R127), and split invariance (R133). -/

namespace Sys2Proof.Machine

/-! Learning a stream and fixing the receive stream (R121, R123). -/

/-- Learning a stream writes the table alone. -/
theorem State.knowStream_eq (s : State) (sid : StreamId) (bidi : Bool) :
    s.knowStream sid bidi = { s with table := (s.knowStream sid bidi).table } := by
  simp only [State.knowStream]
  cases s.record sid <;> rfl

@[simp] theorem State.knowStream_session (s : State) (sid : StreamId) (bidi : Bool) :
    (s.knowStream sid bidi).session = s.session := by rw [State.knowStream_eq]
@[simp] theorem State.knowStream_dec (s : State) (sid : StreamId) (bidi : Bool) :
    (s.knowStream sid bidi).dec = s.dec := by rw [State.knowStream_eq]

theorem State.knowStream_of_unknown {s : State} {sid : StreamId} (h : s.record sid = none) (bidi : Bool) :
    s.knowStream sid bidi = s.putRecord sid (newRecord bidi false) := by simp only [State.knowStream, h]

theorem State.knowStream_of_known {s : State} {sid : StreamId} {rec : StreamRecord} (h : s.record sid = some rec)
    (bidi : Bool) : s.knowStream sid bidi = s := by simp only [State.knowStream, h]

theorem State.associate_of_idle {s : State} (h : s.dec.phase = .idle) (sid : StreamId) :
    s.associate sid =
      (s.onSession fun x => { x with activeRecv := some sid }).onDec fun d => { d with phase := .len } := if_pos h

theorem State.associate_of_not_idle {s : State} (h : s.dec.phase ≠ .idle) (sid : StreamId) : s.associate sid = s :=
  if_neg h

/-- Fixing the receive stream keeps the received-byte counter. -/
@[simp] theorem State.associate_streamBytesReceived (s : State) (sid : StreamId) :
    (s.associate sid).session.streamBytesReceived = s.session.streamBytesReceived := by
  by_cases h : s.dec.phase = .idle
  · rw [State.associate_of_idle h]; rfl
  · rw [State.associate_of_not_idle h]

/-- Where the stream is the receive stream already or becomes it, fixing it leaves it the receive stream. -/
theorem State.associate_eq {s : State} {sid : StreamId} (h : s.dec.phase = .idle ∨ s.session.activeRecv = some sid) :
    s.associate sid = (s.onSession fun x => { x with activeRecv := some sid }).onDec fun d =>
      { d with phase := if d.phase = .idle then .len else d.phase } := by
  by_cases hp : s.dec.phase = .idle
  · rw [State.associate_of_idle hp]
    simp only [State.onSession, State.onDec, hp, if_true]
  · have hturn := h.resolve_left hp
    rw [State.associate_of_not_idle hp]
    simp only [State.onSession, State.onDec, if_neg hp, ← hturn]

/-! The checks of a delivery (R121). -/

/-- The payload of a delivery is its only condition of well-formedness. -/
theorem deliverBytes_wf {sid : StreamId} {fin bidi isLocal : Bool} {payload : List Byte}
    (h : payload.length < 2 ^ 16) : (Instr.deliverBytes sid fin bidi isLocal payload).wf = true := decide_eq_true h

/-- A live block answers a delivery by the test of R121, and otherwise goes on with the stream known. -/
theorem exec_deliverBytes_live {s : State} {payload : List Byte} (hs : Live s) (hp : payload.length < 2 ^ 16)
    (sid : StreamId) (fin bidi isLocal : Bool) :
    exec (.deliverBytes sid fin bidi isLocal payload) s =
      if streamRefused s sid isLocal then answer .errIllegal s
      else receiveRange sid fin payload (s.knowStream sid bidi) :=
  checked_run (i := .deliverBytes sid fin bidi isLocal payload) hs.1 (deliverBytes_wf hp) hs.2 fun s =>
    if streamRefused s sid isLocal then answer .errIllegal s
    else receiveRange sid fin payload (s.knowStream sid bidi)

theorem exec_deliverBytes_refused {s : State} {sid : StreamId} {isLocal : Bool} {payload : List Byte} (hs : Live s)
    (hp : payload.length < 2 ^ 16) (hb : HostDutyBroken s sid isLocal) (fin bidi : Bool) :
    exec (.deliverBytes sid fin bidi isLocal payload) s = answer .errIllegal s := by
  rw [exec_deliverBytes_live hs hp, if_pos ((streamRefused_iff s sid isLocal).2 hb)]

theorem exec_deliverBytes_accepted {s : State} {sid : StreamId} {isLocal : Bool} {payload : List Byte} (hs : Live s)
    (hp : payload.length < 2 ^ 16) (hb : ¬ HostDutyBroken s sid isLocal) (fin bidi : Bool) :
    exec (.deliverBytes sid fin bidi isLocal payload) s = receiveRange sid fin payload (s.knowStream sid bidi) := by
  rw [exec_deliverBytes_live hs hp, if_neg (mt (streamRefused_iff s sid isLocal).1 hb)]

/-- Settles O18: the model's test is R121's disjunction, and learning a stream is R121's new record. -/
theorem streamChecksOfDelivery : Obligations.StreamChecksOfDelivery := by
  intro s sid fin bidi isLocal payload hs hp
  refine ⟨fun hb => exec_deliverBytes_refused hs hp hb fin bidi, fun hb hnew => ?unknown, fun hb hold => ?known⟩
  case unknown =>
    rw [exec_deliverBytes_accepted hs hp hb, State.knowStream_of_unknown hnew]
    rfl
  case known =>
    obtain ⟨rec, hrec⟩ := Option.ne_none_iff_exists'.1 hold
    rw [exec_deliverBytes_accepted hs hp hb, State.knowStream_of_known hrec]

/-! What each operation of a delivery does to the received-byte counter: nothing, once it is counted (R122). -/

theorem closeSession_keeps_received {code : CloseCode} {o : OutcomeCode} {s t : State}
    (h : closeSession code o s = .next t) : t.session.streamBytesReceived = s.session.streamBytesReceived := by
  obtain ⟨c, rec, -, -, rfl⟩ := closeSession_next h
  simp

theorem armStream_keeps_received {sid : StreamId} {s t : State} (h : armStream sid s = .next t) :
    t.session.streamBytesReceived = s.session.streamBytesReceived := by
  rcases armStream_next h with ⟨-, rfl⟩ | ⟨turns, -, rfl⟩
  · rfl
  · rfl

theorem openAndArm_keeps_received {bidi : Bool} {s t : State} (h : openAndArm bidi s = .next t) :
    t.session.streamBytesReceived = s.session.streamBytesReceived := by
  rcases openAndArm_next h with ⟨-, h⟩ | ⟨sid, control, -, -, h⟩
  · rw [closeSession_keeps_received h, State.emit_session]
  · rw [armStream_keeps_received h, State.headStream_session, State.emit_session]

theorem armSame_keeps_received {sid : StreamId} {rec : StreamRecord} {s t : State} (h : armSame sid rec s = .next t) :
    t.session.streamBytesReceived = s.session.streamBytesReceived := by
  simp only [armSame] at h
  split at h
  · rw [raiseFault_next h]
  · exact armStream_keeps_received h

theorem dispatchTurn_keeps_received {inbound : Option StreamId} {s t : State} (h : dispatchTurn inbound s = .next t) :
    t.session.streamBytesReceived = s.session.streamBytesReceived := by
  rcases dispatchTurn_next h with ⟨-, rfl⟩ | ⟨-, bidi, h⟩ | ⟨-, sid, rec, -, -, -, h⟩
  · rfl
  · exact openAndArm_keeps_received h
  · exact armSame_keeps_received h

theorem zeroBaton_keeps_received {r : StreamId} {rec : StreamRecord} {s t : State} (h : zeroBaton r rec s = .next t) :
    t.session.streamBytesReceived = s.session.streamBytesReceived := by
  rw [closeSession_keeps_received h]
  cases finOwed rec <;> rfl

theorem acceptTurn_keeps_received {b : Byte} {r : StreamId} {s t : State} (h : acceptTurn b r s = .next t) :
    t.session.streamBytesReceived = s.session.streamBytesReceived := by
  rcases acceptTurn_next h with ⟨-, rfl⟩ | ⟨turns, n, role, -, -, -, h⟩
  · rfl
  · rw [dispatchTurn_keeps_received h, State.mirrorBaton_session]
    rfl

theorem turnCheck_keeps_received {s t : State} (h : turnCheck s = .next t) :
    t.session.streamBytesReceived = s.session.streamBytesReceived := by
  obtain ⟨b, r, -, -, h⟩ := turnCheck_next h
  rcases h with ⟨-, rec, -, h⟩ | ⟨-, prev, -, -, -, h⟩ | ⟨-, -, h⟩
  · exact zeroBaton_keeps_received h
  · rw [closeSession_keeps_received h, State.onSession_session]
  · exact acceptTurn_keeps_received h

theorem endOfRange_keeps_received {sid : StreamId} {fin c : Bool} {s t : State}
    (h : endOfRange sid fin c s = .next t) : t.session.streamBytesReceived = s.session.streamBytesReceived := by
  rcases endOfRange_next h with ⟨-, -, h⟩ | ⟨u, hu, h⟩
  · exact closeSession_keeps_received h
  · have hkept : u.session = s.session := by
      rcases hu with ⟨rfl, -⟩ | ⟨-, -, rec, -, rfl⟩
      · rfl
      · rfl
    rw [← hkept]
    rcases h with ⟨-, h⟩ | ⟨-, rfl⟩
    · exact turnCheck_keeps_received h
    · rfl

theorem emptyRange_keeps_received {sid : StreamId} {fin : Bool} {s t : State} (h : emptyRange sid fin s = .next t) :
    t.session.streamBytesReceived = s.session.streamBytesReceived := by
  rcases emptyRange_next h with ⟨-, rfl⟩ | ⟨-, -, -, h⟩ | ⟨-, rec, -, rfl⟩
  · rfl
  · exact closeSession_keeps_received h
  · rfl

theorem decodeByte_ok_keeps_received {sid : StreamId} {b : Byte} {s t : State} {now : Bool}
    (h : decodeByte sid b s = .ok t now) : t.session.streamBytesReceived = s.session.streamBytesReceived := by
  rcases decodeByte_ok h with ⟨-, -, m, b0, -, -, -, ⟨-, rfl⟩ | ⟨-, bs, -, rfl⟩⟩ | ⟨-, -, rfl⟩ | ⟨-, -, rec, -, rfl⟩
  · rfl
  · rfl
  · rfl
  · rfl

theorem decodeByte_violation_keeps_received {sid : StreamId} {b : Byte} {s t : State}
    (h : decodeByte sid b s = .violation t) : t.session.streamBytesReceived = s.session.streamBytesReceived := by
  rcases decodeByte_violation h with ⟨-, rfl⟩ | ⟨-, m, b0, -, -, -, rfl⟩
  · rfl
  · rfl

theorem byteRange_keeps_received {sid : StreamId} {fin : Bool} {payload : List Byte} {s t : State}
    (h : byteRange sid fin payload s = .next t) :
    t.session.streamBytesReceived = s.session.streamBytesReceived := by
  have hbytes := decodeBytes_ind (sid := sid) (bs := payload) (c := false) (s := s.associate sid)
    (P := fun u => u.session.streamBytesReceived = s.session.streamBytesReceived)
    (fun _ _ _ _ hu hb => (decodeByte_ok_keeps_received hb).trans hu)
    (fun _ _ _ hu hb => (decodeByte_violation_keeps_received hb).trans hu) (State.associate_streamBytesReceived s sid)
  obtain ⟨rec, -, h⟩ := byteRange_next h
  rcases h with ⟨-, h⟩ | ⟨-, -, -, h⟩ | ⟨-, -, ⟨u, hu, h⟩ | ⟨u, c, hu, h⟩⟩
  · exact closeSession_keeps_received h
  · exact closeSession_keeps_received h
  · exact (closeSession_keeps_received h).trans (hbytes.2 u hu)
  · exact (endOfRange_keeps_received h).trans (hbytes.1 u c hu)

/-- Where the sum fits, a delivery on a known stream leaves the counter at the sum. -/
theorem receiveRange_counts {sid : StreamId} {fin : Bool} {payload : List Byte} {s t : State}
    (hfits : s.session.streamBytesReceived.toNat + payload.length < 2 ^ 64)
    (h : receiveRange sid fin payload s = .next t) :
    t.session.streamBytesReceived.toNat = s.session.streamBytesReceived.toNat + payload.length := by
  rcases receiveRange_next h with ⟨hover, -⟩ | ⟨total, htotal, h⟩
  · omega
  · rw [← (addCounter_some htotal).2]
    rcases h with ⟨-, h⟩ | ⟨-, h⟩
    · rw [emptyRange_keeps_received h]; rfl
    · rw [byteRange_keeps_received h]; rfl

/-- Where the sum does not fit, a delivery on a known stream decodes nothing. -/
theorem receiveRange_overflow {s : State} {payload : List Byte}
    (hover : 2 ^ 64 ≤ s.session.streamBytesReceived.toNat + payload.length) (sid : StreamId) (fin : Bool) :
    receiveRange sid fin payload s = raiseFault .counterOverflow s := by
  simp only [receiveRange, addCounter_none.2 hover]

/-- Settles O19: the counter is written before the bytes are decoded, and nothing after that writes it. -/
theorem receivedBytesAreCounted : Obligations.ReceivedBytesAreCounted := by
  intro s sid fin bidi isLocal payload hs hp hb
  rw [exec_deliverBytes_accepted hs hp hb]
  refine ⟨fun hfits t h => ?fits, fun hover => ?overflows⟩
  case fits =>
    rw [receiveRange_counts (by simpa using hfits) h, State.knowStream_session]
  case overflows =>
    rw [receiveRange_overflow (by simpa using hover)]
    rfl

/-! A range of bytes that the block takes (R123 to R131). -/

/-- The received-byte counter plus `n` (R122). -/
def State.countBytes (s : State) (n : Nat) : State :=
  s.onSession fun x => { x with streamBytesReceived := BitVec.ofNat 64 (x.streamBytesReceived.toNat + n) }

/-- The state in which the bytes of a range of `n` bytes are processed: the stream known (R121), the bytes counted
(R122), and the receive stream fixed (R123). -/
def State.beginRange (s : State) (sid : StreamId) (bidi : Bool) (n : Nat) : State :=
  ((s.knowStream sid bidi).countBytes n).associate sid

/-- Within a turn, on a stream that is known, a range only counts its bytes before it is processed. -/
theorem State.beginRange_of_begun {s : State} {sid : StreamId} {rec : StreamRecord} (hrec : s.record sid = some rec)
    (hp : s.dec.phase ≠ .idle) (bidi : Bool) (n : Nat) : s.beginRange sid bidi n = s.countBytes n := by
  rw [State.beginRange, State.knowStream_of_known hrec]
  exact State.associate_of_not_idle (s := s.countBytes n) hp sid

/-- How the command ends after its bytes, from what processing them answered. -/
def ByteRun.finish (sid : StreamId) (fin : Bool) : ByteRun → Result
  | .ok s completed => endOfRange sid fin completed s
  | .violation s => framingViolation s
  | .stuck f => .fault f

/-- The block takes bytes on `sid`: it is live, R121 refuses nothing, the stream has carried no baton (R126), and no
other stream is being received (R123). -/
structure TakesBytes (s : State) (sid : StreamId) (isLocal : Bool) : Prop where
  live : Live s
  duty : ¬ HostDutyBroken s sid isLocal
  fresh : ∀ rec ∈ s.record sid, rec.frameDone = false
  turn : s.dec.phase = .idle ∨ s.session.activeRecv = some sid

/-- A non-empty range whose count fits is counted, then decoded. -/
theorem receiveRange_bytes {s : State} {payload : List Byte} (hne : payload ≠ [])
    (hfits : s.session.streamBytesReceived.toNat + payload.length < 2 ^ 64) (sid : StreamId) (fin : Bool) :
    receiveRange sid fin payload s = byteRange sid fin payload (s.countBytes payload.length) := by
  simp only [receiveRange, addCounter_of_lt hfits, if_neg hne]
  rfl

/-- Bytes on a stream that has carried no baton, with no other stream being received, are all processed. -/
theorem byteRange_decodes {s : State} {sid : StreamId} {rec : StreamRecord} (hrec : s.record sid = some rec)
    (hfresh : rec.frameDone = false) (hturn : s.dec.phase = .idle ∨ s.session.activeRecv = some sid) (fin : Bool)
    (payload : List Byte) :
    byteRange sid fin payload s = (decodeBytes sid payload false (s.associate sid)).finish sid fin := by
  have hsame : ¬ (s.dec.phase ≠ .idle ∧ s.session.activeRecv ≠ some sid) := by tauto
  rw [byteRange, withRecord_some hrec, if_neg (by simp [hfresh]), if_neg hsame]
  cases decodeBytes sid payload false (s.associate sid) <;> rfl

/-- The record under which the bytes are processed, new or not, has carried no baton. -/
theorem TakesBytes.knowStream_fresh {s : State} {sid : StreamId} {isLocal : Bool} (hs : TakesBytes s sid isLocal)
    (bidi : Bool) : ∀ rec ∈ (s.knowStream sid bidi).record sid, rec.frameDone = false := by
  rw [State.knowStream_record, if_pos rfl]
  rintro _ ⟨⟩
  cases h : s.record sid with
  | none => rfl
  | some rec => exact hs.fresh rec h

/-- A non-empty range on a stream whose bytes the block takes is decoded byte by byte. -/
theorem exec_deliverBytes_range {s : State} {sid : StreamId} {isLocal : Bool} {payload : List Byte}
    (hs : TakesBytes s sid isLocal) (hne : payload ≠ []) (hp : payload.length < 2 ^ 16)
    (hfits : s.session.streamBytesReceived.toNat + payload.length < 2 ^ 64) (fin bidi : Bool) :
    exec (.deliverBytes sid fin bidi isLocal payload) s =
      (decodeBytes sid payload false (s.beginRange sid bidi payload.length)).finish sid fin := by
  have hrec : (s.knowStream sid bidi).record sid = some ((s.record sid).getD (newRecord bidi false)) := by
    rw [State.knowStream_record, if_pos rfl]
  rw [exec_deliverBytes_accepted hs.live hp hs.duty, receiveRange_bytes hne (by simpa using hfits),
    byteRange_decodes (s := (s.knowStream sid bidi).countBytes payload.length) hrec
      (hs.knowStream_fresh bidi _ hrec) (by simpa [State.countBytes] using hs.turn)]
  rfl

/-! Padding (R127). -/

theorem decodeByte_pad {s : State} (h : s.dec.phase = .pad) (sid : StreamId) (b : Byte) :
    decodeByte sid b s = .ok (s.onDec Decoder.countPadding) false := by simp only [decodeByte, h]

/-- The decoder registers after `n` more bytes of padding. -/
def Decoder.afterPadding (d : Decoder) (e : PadLen) (n : Nat) : Decoder :=
  { d with
    paddingReceived := BitVec.ofNat 14 (d.paddingReceived.toNat + n)
    phase := if d.paddingReceived.toNat + n = e.toNat then .baton else .pad }

/-- One byte of padding that is expected counts as one. -/
theorem Decoder.countPadding_eq {d : Decoder} {e : PadLen} (hp : d.phase = .pad) (he : d.paddingExpected = some e)
    (hlt : d.paddingReceived.toNat < e.toNat) : d.countPadding = d.afterPadding e 1 := by
  have hsum : d.paddingReceived + 1 = BitVec.ofNat 14 (d.paddingReceived.toNat + 1) := by
    apply BitVec.eq_of_toNat_eq
    simp
  have hlast : e = BitVec.ofNat 14 (d.paddingReceived.toNat + 1) ↔ d.paddingReceived.toNat + 1 = e.toNat := by
    rw [← BitVec.toNat_inj, BitVec.toNat_ofNat]
    omega
  simp only [Decoder.countPadding, Decoder.afterPadding, hsum, he, hp, Option.some.injEq, hlast]

/-- Bytes of padding count one after the other. -/
theorem Decoder.afterPadding_afterPadding (d : Decoder) (e : PadLen) (m n : Nat)
    (h : d.paddingReceived.toNat + m < 2 ^ 14) :
    (d.afterPadding e m).afterPadding e n = d.afterPadding e (m + n) := by
  simp only [Decoder.afterPadding, BitVec.toNat_ofNat, Nat.mod_eq_of_lt h, Nat.add_assoc]

/-- Where the phase says whether the padding is complete, no byte of it changes nothing. -/
theorem Decoder.afterPadding_zero {d : Decoder} {e : PadLen}
    (hp : d.phase = if d.paddingReceived.toNat = e.toNat then .baton else .pad) : d.afterPadding e 0 = d := by
  simp only [Decoder.afterPadding, Nat.add_zero, BitVec.ofNat_toNat, BitVec.setWidth_eq, ← hp]

/-- Bytes that all fall inside the padding are counted, whatever their content. -/
theorem decodeBytes_padding {s : State} {e : PadLen} {bytes : List Byte}
    (hp : s.dec.phase = if s.dec.paddingReceived.toNat = e.toNat then .baton else .pad)
    (he : s.dec.paddingExpected = some e) (hle : s.dec.paddingReceived.toNat + bytes.length ≤ e.toNat)
    (sid : StreamId) (c : Bool) :
    decodeBytes sid bytes c s = .ok (s.onDec fun d => d.afterPadding e bytes.length) c := by
  induction bytes generalizing s with
  | nil => rw [decodeBytes_nil, List.length_nil, State.onDec, Decoder.afterPadding_zero hp]
  | cons b rest ih =>
    rw [List.length_cons] at hle
    have hbound : s.dec.paddingReceived.toNat + 1 < 2 ^ 14 := by omega
    have hpad : s.dec.phase = .pad := by rw [hp, if_neg (by omega)]
    have hb : s.onDec Decoder.countPadding = s.onDec fun d => d.afterPadding e 1 := by
      rw [State.onDec, State.onDec, Decoder.countPadding_eq hpad he (by omega)]
    have hone : (s.dec.afterPadding e 1).paddingReceived.toNat = s.dec.paddingReceived.toNat + 1 := by
      rw [Decoder.afterPadding, BitVec.toNat_ofNat, Nat.mod_eq_of_lt hbound]
    have hrest := ih (s := s.onDec fun d => d.afterPadding e 1) (by rw [State.onDec_dec, hone]; rfl) he
      (by rw [State.onDec_dec, hone]; omega)
    calc decodeBytes sid (b :: rest) c s
        = decodeBytes sid rest c (s.onDec fun d => d.afterPadding e 1) := by
          rw [decodeBytes_cons, decodeByte_pad hpad, hb]
          simp only [Bool.or_false]
      _ = .ok (s.onDec fun d => (d.afterPadding e 1).afterPadding e rest.length) c := hrest
      _ = .ok (s.onDec fun d => d.afterPadding e (b :: rest).length) c := by
          simp only [State.onDec, Decoder.afterPadding_afterPadding _ _ _ _ hbound, List.length_cons, Nat.add_comm 1]

/-- Settles O20: every byte of the range is counted as padding, and a range that completes no baton ends with OK. -/
theorem paddingIsConsumed : Obligations.PaddingIsConsumed := by
  intro s sid bidi isLocal payload rec e hs hc hrec hfresh hfin hdir hpad hturn he hne hle hfits
  have hduty : ¬ HostDutyBroken s sid isLocal := by
    rw [HostDutyBroken, hrec]
    rcases hdir with hdir | hdir <;> simp [hc, hfin, hdir]
  have htakes : TakesBytes s sid isLocal := ⟨hs, hduty, by simp [hrec, hfresh], .inr hturn⟩
  have hshort : payload.length < 2 ^ 16 := by omega
  have hlt : s.dec.paddingReceived.toNat < e.toNat := by
    have := List.length_pos_iff.2 hne
    omega
  have hphase : s.dec.phase = if s.dec.paddingReceived.toNat = e.toNat then .baton else .pad := by
    rw [hpad, if_neg hlt.ne]
  rw [exec_deliverBytes_range htakes hne hshort hfits, State.beginRange_of_begun hrec (by simp [hpad]),
    decodeBytes_padding (s := s.countBytes payload.length) hphase he hle]
  rfl

/-! A whole frame (R124, R125, R128): its bytes complete the baton and are no violation. -/

theorem decodeByte_baton {s : State} {sid : StreamId} {rec : StreamRecord} (h : s.dec.phase = .baton)
    (hrec : s.record sid = some rec) (b : Byte) :
    decodeByte sid b s =
      .ok (((s.onSession fun x => { x with batonIn := some b }).putRecord sid { rec with frameDone := true }).onDec
        fun d => { d with phase := .done }) true := by
  simp only [decodeByte, h, batonByte, hrec]

/-- After the baton every byte is a violation (R129). -/
theorem decodeBytes_done {s : State} {bytes : List Byte} (h : s.dec.phase = .done) (hne : bytes ≠ []) (sid : StreamId)
    (c : Bool) : decodeBytes sid bytes c s = .violation s := by
  obtain ⟨b, rest, rfl⟩ := List.exists_cons_of_ne_nil hne
  simp only [decodeBytes_cons, decodeByte, h]

/-- `n` bytes of the padding length stored, the scratch at `m`. -/
def Decoder.storePrefix (d : Decoder) (m : Memory) (n : Nat) : Decoder := { d with scratch := m, scratchLen := n }

/-- In D_LEN a byte is stored at the next address of the scratch (R124). -/
theorem decodeByte_len {s : State} {b : Byte} {m : Memory} (h : s.dec.phase = .len)
    (hw : s.dec.scratch.write s.dec.scratchLen b = some m) (sid : StreamId) :
    decodeByte sid b s = prefixStored (s.onDec fun d => d.storePrefix m (s.dec.scratchLen + 1)) := by
  simp only [decodeByte, h, lenByte, hw]
  rfl

/-- The byte that completes a padding length of one or two bytes begins the padding (R125). -/
theorem prefixStored_complete {s : State} {b0 : Byte} {bs : List Byte} (h0 : s.dec.scratch.read 0 = some b0)
    (hv : vlen b0 ≤ 2) (hlen : s.dec.scratchLen = vlen b0) (hbs : scratchPrefix s.dec.scratch (vlen b0) = some bs) :
    prefixStored s = .ok (s.onDec fun d => d.beginPadding (BitVec.ofNat 14 (varintValue bs))) false := by
  simp only [prefixStored, h0, if_neg (Nat.not_lt.2 hv), if_pos hlen, hbs]

/-- A padding length that lacks a byte waits for it (R124). -/
theorem prefixStored_waits {s : State} {b0 : Byte} (h0 : s.dec.scratch.read 0 = some b0) (hv : vlen b0 ≤ 2)
    (hlen : s.dec.scratchLen ≠ vlen b0) : prefixStored s = .ok s false := by
  simp only [prefixStored, h0, if_neg (Nat.not_lt.2 hv), if_neg hlen]

/-- An encoded padding length is one byte that announces one, or two of which the first announces two (R101). -/
theorem IsPrefix.cases {pfx : List Byte} (h : IsPrefix pfx) :
    (∃ b0, pfx = [b0] ∧ vlen b0 = 1) ∨ (∃ b0 b1, pfx = [b0, b1] ∧ vlen b0 = 2) := by
  obtain ⟨hlen, htwo⟩ := h
  match pfx, hlen, htwo with
  | [b0], hlen, _ => exact .inl ⟨b0, rfl, by simpa using hlen⟩
  | [b0, b1], hlen, _ => exact .inr ⟨b0, b1, rfl, by simpa using hlen⟩

/-- An encoded padding length has at most 14 bits (R101). -/
theorem IsPrefix.varintValue_lt {pfx : List Byte} (h : IsPrefix pfx) : varintValue pfx < 2 ^ 14 := by
  rcases h.cases with ⟨b0, rfl, -⟩ | ⟨b0, b1, rfl, -⟩
  · have hb0 := (b0.extractLsb' 0 6).isLt
    simp only [varintValue, List.foldl_nil]
    omega
  · have hb0 := (b0.extractLsb' 0 6).isLt
    have hb1 := b1.isLt
    simp only [varintValue, List.foldl_cons, List.foldl_nil]
    omega

/-- A frame's length fits the LEN field (R103). -/
theorem IsFrame.length_lt {pfx padding : List Byte} (h : IsFrame pfx padding) (b : Byte) :
    (pfx ++ padding ++ [b]).length < 2 ^ 16 := by
  obtain ⟨hpfx, hpadding⟩ := h
  have htwo := hpfx.2
  have hvalue := hpfx.varintValue_lt
  simp only [List.length_append, List.length_singleton]
  omega

/-- The bytes of an encoded padding length are stored in the scratch, whose other bytes stay, and begin the padding they
announce. -/
theorem decodeBytes_prefix {s : State} {pfx : List Byte} (hphase : s.dec.phase = .len) (h0 : s.dec.scratchLen = 0)
    (hpfx : IsPrefix pfx) (sid : StreamId) (c : Bool) :
    ∃ m : Memory, (∀ a, m.read a = pfx[a]?.or (s.dec.scratch.read a)) ∧
      decodeBytes sid pfx c s = .ok (s.onDec fun d =>
        (d.storePrefix m pfx.length).beginPadding (BitVec.ofNat 14 (varintValue pfx))) c := by
  rcases hpfx.cases with ⟨b0, rfl, hv⟩ | ⟨b0, b1, rfl, hv⟩
  case inl =>
    obtain ⟨m, hw⟩ : ∃ m, s.dec.scratch.write 0 b0 = some m := ⟨_, Memory.write_of_lt (by decide) b0⟩
    obtain ⟨-, hread, hkept, -⟩ := Memory.write_spec hw
    have hb0 := decodeByte_len hphase (h0.symm ▸ hw) sid
    rw [h0, prefixStored_complete (bs := [b0]) hread (by omega) hv.symm
      (by simp [hv, scratchPrefix, Decoder.storePrefix, hread])] at hb0
    refine ⟨m, fun a => ?_, ?_⟩
    · cases a with
      | zero => exact hread
      | succ a => exact hkept _ a.succ_ne_zero
    · rw [decodeBytes_cons, hb0]
      simp only [decodeBytes_nil, Bool.or_false]
      rfl
  case inr =>
    obtain ⟨m0, hw0⟩ : ∃ m, s.dec.scratch.write 0 b0 = some m := ⟨_, Memory.write_of_lt (by decide) b0⟩
    obtain ⟨m, hw⟩ : ∃ m, m0.write 1 b1 = some m := ⟨_, Memory.write_of_lt (by decide) b1⟩
    obtain ⟨-, hread0, hkept0, -⟩ := Memory.write_spec hw0
    obtain ⟨-, hread1, hkept, -⟩ := Memory.write_spec hw
    have hread : m.read 0 = some b0 := (hkept 0 (by decide)).trans hread0
    have hb0 := decodeByte_len hphase (h0.symm ▸ hw0) sid
    rw [h0, prefixStored_waits hread0 hv.le (by simp [hv, Decoder.storePrefix])] at hb0
    have hb1 := decodeByte_len (s := s.onDec fun d => d.storePrefix m0 1) hphase hw sid
    rw [prefixStored_complete (bs := [b0, b1]) hread hv.le hv.symm
      (by simp [hv, scratchPrefix, Decoder.storePrefix, hread, hread1])] at hb1
    refine ⟨m, fun a => ?_, ?_⟩
    · match a with
      | 0 => exact hread
      | 1 => exact hread1
      | a + 2 => exact (hkept _ (by omega)).trans (hkept0 _ (by omega))
    · rw [decodeBytes_cons, hb0]
      simp only [decodeBytes_cons, hb1, decodeBytes_nil, Bool.or_false]
      rfl

/-- The padding that is left, then one byte, complete the baton. -/
theorem decodeBytes_padding_baton {s : State} {sid : StreamId} {rec : StreamRecord} {e : PadLen} {padding : List Byte}
    (hp : s.dec.phase = if s.dec.paddingReceived.toNat = e.toNat then .baton else .pad)
    (he : s.dec.paddingExpected = some e) (hlen : s.dec.paddingReceived.toNat + padding.length = e.toNat)
    (hrec : s.record sid = some rec) (b : Byte) (c : Bool) :
    ∃ u, decodeBytes sid (padding ++ [b]) c s = .ok u true := by
  have hbaton : (s.onDec fun d => d.afterPadding e padding.length).dec.phase = .baton := if_pos hlen
  rw [decodeBytes_append, decodeBytes_padding hp he hlen.le]
  simp only [decodeBytes_cons, decodeByte_baton hbaton hrec, decodeBytes_nil, Bool.or_true]
  exact ⟨_, rfl⟩

/-- The bytes of a frame are processed without a violation, and the last one is the baton. -/
theorem decodeBytes_frame {s : State} {sid : StreamId} {rec : StreamRecord} {pfx padding : List Byte}
    (hphase : s.dec.phase = .len) (h0 : s.dec.scratchLen = 0) (hrec : s.record sid = some rec)
    (hframe : IsFrame pfx padding) (b : Byte) (c : Bool) :
    ∃ u, decodeBytes sid (pfx ++ padding ++ [b]) c s = .ok u true := by
  obtain ⟨hpfx, hlen⟩ := hframe
  obtain ⟨m, -, hm⟩ := decodeBytes_prefix hphase h0 hpfx sid c
  have he : (BitVec.ofNat 14 (varintValue pfx)).toNat = padding.length := by
    rw [BitVec.toNat_ofNat, Nat.mod_eq_of_lt hpfx.varintValue_lt, hlen]
  have hempty (e : PadLen) : e = 0 ↔ (0 : PadLen).toNat = e.toNat := BitVec.toNat_inj.symm.trans eq_comm
  rw [List.append_assoc, decodeBytes_append, hm]
  exact decodeBytes_padding_baton
    (s := s.onDec fun d => (d.storePrefix m pfx.length).beginPadding (BitVec.ofNat 14 (varintValue pfx)))
    (if_congr (hempty _) rfl rfl) rfl ((Nat.zero_add _).trans he.symm) hrec b c

/-! What is left of a frame after a part of it (R133). -/

/-- A byte that is not the baton writes the decoder registers alone, and does not leave the turn; the baton ends it. -/
theorem decodeByte_ok_cases {sid : StreamId} {b : Byte} {s t : State} {now : Bool}
    (h : decodeByte sid b s = .ok t now) :
    (now = true ∧ t.dec.phase = .done) ∨ (now = false ∧ t.dec.phase ≠ .idle ∧ t = { s with dec := t.dec }) := by
  rcases decodeByte_ok h with
    ⟨hp, rfl, m, b0, -, -, -, ⟨-, rfl⟩ | ⟨-, bs, -, rfl⟩⟩ | ⟨hp, rfl, rfl⟩ | ⟨-, rfl, rec, -, rfl⟩
  · exact .inr ⟨rfl, by simp [hp], rfl⟩
  · refine .inr ⟨rfl, ?_, rfl⟩
    simp only [State.onDec_dec, Decoder.beginPadding]
    split <;> simp
  · refine .inr ⟨rfl, ?_, rfl⟩
    simp only [State.onDec_dec, Decoder.countPadding]
    split <;> simp [hp]
  · exact .inl ⟨rfl, rfl⟩

/-- Bytes without a violation have completed the frame, or have written the decoder registers alone. -/
theorem decodeBytes_ok_cases {sid : StreamId} {bytes : List Byte} {s t : State} {c : Bool}
    (hs : s.dec.phase ≠ .idle) (h : decodeBytes sid bytes false s = .ok t c) :
    (c = true ∧ t.dec.phase = .done) ∨ (c = false ∧ t.dec.phase ≠ .idle ∧ t = { s with dec := t.dec }) := by
  induction bytes generalizing s with
  | nil =>
    obtain ⟨rfl, rfl⟩ := ByteRun.ok.inj h
    exact .inr ⟨rfl, hs, rfl⟩
  | cons b rest ih =>
    rw [decodeBytes_cons] at h
    cases hb : decodeByte sid b s with
    | violation u => rw [hb] at h; cases h
    | stuck f => rw [hb] at h; cases h
    | ok u now =>
      rw [hb] at h
      rcases decodeByte_ok_cases hb with ⟨rfl, hdone⟩ | ⟨rfl, hu, hkept⟩
      · by_cases hrest : rest = []
        · subst hrest
          obtain ⟨rfl, rfl⟩ := ByteRun.ok.inj h
          exact .inl ⟨rfl, hdone⟩
        · have hviolation := decodeBytes_done hdone hrest sid true
          cases hviolation.symm.trans h
      · refine (ih hu h).imp id fun ⟨hc, ht, hrest⟩ => ⟨hc, ht, ?_⟩
        rw [hrest, hkept]

/-- A part of a frame, followed by more of it, has not completed it. -/
theorem decodeBytes_part {sid : StreamId} {xs ys : List Byte} {s u : State} {c : Bool} (hs : s.dec.phase ≠ .idle)
    (hys : ys ≠ []) (h : decodeBytes sid (xs ++ ys) false s = .ok u c) :
    ∃ t, decodeBytes sid xs false s = .ok t false ∧ decodeBytes sid ys false t = .ok u c ∧
      t.dec.phase ≠ .idle ∧ t = { s with dec := t.dec } := by
  rw [decodeBytes_append] at h
  cases hxs : decodeBytes sid xs false s with
  | violation t => rw [hxs] at h; cases h
  | stuck f => rw [hxs] at h; cases h
  | ok t c' =>
    rw [hxs] at h
    rcases decodeBytes_ok_cases hs hxs with ⟨-, hdone⟩ | ⟨rfl, ht, hkept⟩
    · cases (decodeBytes_done hdone hys sid c').symm.trans h
    · exact ⟨t, rfl, h, ht, hkept⟩

/-! The counter and the reply while bytes are processed: no byte reads them. -/

/-- The reply register at `r`. -/
def State.withReply (s : State) (r : Option Reply) : State := { s with reply := r }

/-- The received-byte counter at `n`, and the reply register at `r`. -/
def State.tallied (s : State) (n : Counter) (r : Option Reply) : State :=
  (s.onSession fun x => { x with streamBytesReceived := n }).withReply r

/-- The same answer, its state replaced. -/
def ByteRun.map (f : State → State) : ByteRun → ByteRun
  | .ok s completed => .ok (f s) completed
  | .violation s => .violation (f s)
  | .stuck e => .stuck e

theorem prefixStored_tallied (s : State) (n : Counter) (r : Option Reply) :
    prefixStored (s.tallied n r) = (prefixStored s).map (·.tallied n r) := by
  have hdec : (s.tallied n r).dec = s.dec := rfl
  simp only [prefixStored, hdec]
  cases s.dec.scratch.read 0 with
  | none => rfl
  | some b0 =>
    by_cases hv : vlen b0 > 2
    · simp only [if_pos hv]; rfl
    · by_cases hl : s.dec.scratchLen = vlen b0
      · simp only [if_neg hv, if_pos hl]
        cases scratchPrefix s.dec.scratch (vlen b0) <;> rfl
      · simp only [if_neg hv, if_neg hl]; rfl

theorem decodeByte_tallied (sid : StreamId) (b : Byte) (s : State) (n : Counter) (r : Option Reply) :
    decodeByte sid b (s.tallied n r) = (decodeByte sid b s).map (·.tallied n r) := by
  have hdec : (s.tallied n r).dec = s.dec := rfl
  have hrec : (s.tallied n r).record sid = s.record sid := rfl
  simp only [decodeByte, hdec]
  cases s.dec.phase with
  | idle => rfl
  | len =>
    simp only [lenByte, hdec]
    cases s.dec.scratch.write s.dec.scratchLen b with
    | none => rfl
    | some m =>
      exact prefixStored_tallied (s.onDec fun d => { d with scratch := m, scratchLen := d.scratchLen + 1 }) n r
  | pad => rfl
  | baton =>
    simp only [batonByte, hrec]
    cases s.record sid <;> rfl
  | done => rfl

theorem decodeBytes_tallied (sid : StreamId) (bytes : List Byte) (c : Bool) (s : State) (n : Counter)
    (r : Option Reply) :
    decodeBytes sid bytes c (s.tallied n r) = (decodeBytes sid bytes c s).map (·.tallied n r) := by
  induction bytes generalizing c s with
  | nil => rfl
  | cons b rest ih =>
    rw [decodeBytes_cons, decodeBytes_cons, decodeByte_tallied]
    cases decodeByte sid b s with
    | ok t now => exact ih _ _
    | violation t => rfl
    | stuck f => rfl

theorem decodeBytes_tallied_ok {sid : StreamId} {bytes : List Byte} {c c' : Bool} {s u : State}
    (h : decodeBytes sid bytes c s = .ok u c') (n : Counter) (r : Option Reply) :
    decodeBytes sid bytes c (s.tallied n r) = .ok (u.tallied n r) c' := by
  rw [decodeBytes_tallied, h]
  rfl

/-! The end of a command replaces the reply, whatever it was (R260): first the updates of the state, which pass the
reply through, then the operations that end a command. -/

section
variable (s : State) (r : Option Reply)

@[simp] theorem State.withReply_session : (s.withReply r).session = s.session := rfl
@[simp] theorem State.withReply_dec : (s.withReply r).dec = s.dec := rfl
@[simp] theorem State.withReply_openAnswer : (s.withReply r).openAnswer = s.openAnswer := rfl
@[simp] theorem State.withReply_cfg : (s.withReply r).cfg = s.cfg := rfl

@[simp] theorem State.onSession_withReply (f : Session → Session) :
    (s.withReply r).onSession f = (s.onSession f).withReply r := rfl
@[simp] theorem State.onEnc_withReply (f : Encoder → Encoder) :
    (s.withReply r).onEnc f = (s.onEnc f).withReply r := rfl
@[simp] theorem State.emit_withReply (e : Event) : (s.withReply r).emit e = (s.emit e).withReply r := rfl
@[simp] theorem State.putRecord_withReply (sid : StreamId) (rec : StreamRecord) :
    (s.withReply r).putRecord sid rec = (s.putRecord sid rec).withReply r := rfl
@[simp] theorem State.noteFirst_withReply (b : Byte) : (s.withReply r).noteFirst b = (s.noteFirst b).withReply r := rfl
@[simp] theorem State.headStream_withReply (bidi : Bool) (sid control : StreamId) :
    (s.withReply r).headStream bidi sid control = (s.headStream bidi sid control).withReply r := rfl
@[simp] theorem State.mirrorBaton_withReply (b : Byte) (role : Role) :
    (s.withReply r).mirrorBaton b role = (s.mirrorBaton b role).withReply r := by
  simp only [State.mirrorBaton]
  cases armsDatagram b role <;> rfl
@[simp] theorem State.closeOn_withReply (c : StreamId) (rec : StreamRecord) (code : CloseCode) :
    (s.withReply r).closeOn c rec code = (s.closeOn c rec code).withReply r := by
  simp only [State.closeOn]
  cases rec.finSent <;> rfl

@[simp] theorem answer_withReply (o : OutcomeCode) : answer o (s.withReply r) = answer o s := rfl
@[simp] theorem raiseFault_withReply (kind : ModelFault) : raiseFault kind (s.withReply r) = raiseFault kind s := rfl
@[simp] theorem withRecord_withReply (sid : StreamId) (k : StreamRecord → Result) :
    withRecord (s.withReply r) sid k = withRecord s sid k := rfl

@[simp] theorem closeSession_withReply (code : CloseCode) (o : OutcomeCode) :
    closeSession code o (s.withReply r) = closeSession code o s := by
  simp only [closeSession, closeThen, State.withReply_session, withRecord_withReply, State.closeOn_withReply,
    answer_withReply]

@[simp] theorem armStream_withReply (sid : StreamId) : armStream sid (s.withReply r) = armStream sid s := by
  simp only [armStream, State.withReply_session, State.withReply_cfg, raiseFault_withReply, State.onSession_withReply,
    State.onEnc_withReply, State.emit_withReply, answer_withReply]

@[simp] theorem openAndArm_withReply (bidi : Bool) : openAndArm bidi (s.withReply r) = openAndArm bidi s := by
  simp only [openAndArm, State.withReply_session, State.withReply_openAnswer, State.emit_withReply,
    State.headStream_withReply, closeSession_withReply, armStream_withReply]

@[simp] theorem armSame_withReply (sid : StreamId) (rec : StreamRecord) :
    armSame sid rec (s.withReply r) = armSame sid rec s := by
  simp only [armSame, raiseFault_withReply, armStream_withReply]

@[simp] theorem dispatchTurn_withReply (inbound : Option StreamId) :
    dispatchTurn inbound (s.withReply r) = dispatchTurn inbound s := by
  simp only [dispatchTurn, dispatchInbound, State.withReply_session, State.withReply_cfg, withRecord_withReply,
    raiseFault_withReply, openAndArm_withReply, armSame_withReply]

@[simp] theorem acceptTurn_withReply (b : Byte) (sid : StreamId) :
    acceptTurn b sid (s.withReply r) = acceptTurn b sid s := by
  simp only [acceptTurn, State.withReply_session, State.noteFirst_withReply, State.onSession_withReply,
    State.mirrorBaton_withReply, raiseFault_withReply, dispatchTurn_withReply]

@[simp] theorem zeroBaton_withReply (sid : StreamId) (rec : StreamRecord) :
    zeroBaton sid rec (s.withReply r) = zeroBaton sid rec s := by
  simp only [zeroBaton, State.emit_withReply, State.putRecord_withReply]
  cases finOwed rec <;> simp

@[simp] theorem sequenceCheck_withReply (b : Byte) (sid : StreamId) :
    sequenceCheck b sid (s.withReply r) = sequenceCheck b sid s := by
  simp only [sequenceCheck, State.withReply_session, State.onSession_withReply, acceptTurn_withReply,
    closeSession_withReply]

@[simp] theorem turnCheck_withReply : turnCheck (s.withReply r) = turnCheck s := by
  simp only [turnCheck, State.withReply_session, withRecord_withReply, zeroBaton_withReply, sequenceCheck_withReply]

@[simp] theorem framingViolation_withReply : framingViolation (s.withReply r) = framingViolation s :=
  closeSession_withReply s r _ _

@[simp] theorem finishDelivery_withReply (completed : Bool) :
    finishDelivery completed (s.withReply r) = finishDelivery completed s := by
  simp only [finishDelivery, turnCheck_withReply, answer_withReply]

@[simp] theorem endOfRange_withReply (sid : StreamId) (fin completed : Bool) :
    endOfRange sid fin completed (s.withReply r) = endOfRange sid fin completed s := by
  simp only [endOfRange, recordFin, State.withReply_dec, withRecord_withReply, State.putRecord_withReply,
    finishDelivery_withReply, framingViolation_withReply]

end

/-- What the bytes answered decides the command's result, not the reply they were processed under. -/
theorem ByteRun.finish_tallied (sid : StreamId) (fin : Bool) (run : ByteRun) (n : Counter) (r r' : Option Reply) :
    (run.map (·.tallied n r)).finish sid fin = (run.map (·.tallied n r')).finish sid fin := by
  cases run <;>
    simp only [ByteRun.map, ByteRun.finish, State.tallied, endOfRange_withReply, framingViolation_withReply]

/-! Split invariance (R133). -/

/-- The checks of R121 read the control stream and the delivery's own record alone. -/
theorem hostDutyBroken_congr {s t : State} {sid : StreamId}
    (hc : t.session.controlStreamId = s.session.controlStreamId) (hr : t.record sid = s.record sid)
    (isLocal : Bool) : HostDutyBroken t sid isLocal ↔ HostDutyBroken s sid isLocal := by
  simp only [HostDutyBroken, hc, hr]

/-- A stream that R121 lets into the table is not refused afterwards. -/
theorem not_hostDutyBroken_knowStream {s : State} {sid : StreamId} {isLocal : Bool}
    (h : ¬ HostDutyBroken s sid isLocal) (bidi : Bool) : ¬ HostDutyBroken (s.knowStream sid bidi) sid isLocal := by
  cases hr : s.record sid with
  | some rec => rwa [State.knowStream_of_known hr]
  | none =>
    rw [State.knowStream_of_unknown hr]
    simp only [HostDutyBroken, not_or] at h
    simp [HostDutyBroken, newRecord, h.1]

/-- The fields of the state in which bytes are processed, where the block takes them. -/
theorem TakesBytes.beginRange_eq {s : State} {sid : StreamId} {isLocal : Bool} (hs : TakesBytes s sid isLocal)
    (bidi : Bool) (n : Nat) :
    s.beginRange sid bidi n = { s with
      session := { s.session with
        activeRecv := some sid
        streamBytesReceived := BitVec.ofNat 64 (s.session.streamBytesReceived.toNat + n) }
      dec := { s.dec with phase := if s.dec.phase = .idle then .len else s.dec.phase }
      table := (s.knowStream sid bidi).table } := by
  rw [State.beginRange, State.associate_eq (by simpa [State.countBytes] using hs.turn)]
  conv_lhs => rw [State.knowStream_eq]
  rfl

theorem TakesBytes.beginRange_phase {s : State} {sid : StreamId} {isLocal : Bool} (hs : TakesBytes s sid isLocal)
    (bidi : Bool) (n : Nat) : (s.beginRange sid bidi n).dec.phase ≠ .idle := by
  rw [hs.beginRange_eq]
  by_cases hp : s.dec.phase = .idle <;> simp [hp]

theorem TakesBytes.beginRange_record {s : State} {sid : StreamId} {isLocal : Bool} (hs : TakesBytes s sid isLocal)
    (bidi : Bool) (n : Nat) :
    (s.beginRange sid bidi n).record sid = some ((s.record sid).getD (newRecord bidi false)) := by
  rw [hs.beginRange_eq]
  exact (State.knowStream_record s sid bidi sid).trans (if_pos rfl)

/-- After bytes that wrote the decoder registers alone the block still takes bytes on the stream, whatever it replied. -/
theorem TakesBytes.afterPart {s t : State} {sid : StreamId} {isLocal bidi : Bool} {n : Nat}
    (hs : TakesBytes s sid isLocal) (ht : t = { s.beginRange sid bidi n with dec := t.dec }) (r : Option Reply) :
    TakesBytes (t.withReply r) sid isLocal := by
  rw [hs.beginRange_eq] at ht
  have hrec : (t.withReply r).record sid = (s.knowStream sid bidi).record sid := by rw [ht]; rfl
  have hcontrol : (t.withReply r).session.controlStreamId = (s.knowStream sid bidi).session.controlStreamId := by
    rw [ht, State.knowStream_session]; rfl
  refine ⟨?live, ?duty, ?fresh, ?turn⟩
  case live => rw [ht]; exact hs.live
  case duty => rw [hostDutyBroken_congr hcontrol hrec]; exact not_hostDutyBroken_knowStream hs.duty bidi
  case fresh => rw [hrec]; exact hs.knowStream_fresh bidi
  case turn => exact .inr (by rw [ht]; rfl)

/-- Counting other bytes changes the counter of the state in which they are processed, and nothing else. -/
theorem TakesBytes.beginRange_tallied {s : State} {sid : StreamId} {isLocal : Bool} (hs : TakesBytes s sid isLocal)
    (bidi : Bool) (m n : Nat) :
    s.beginRange sid bidi n = (s.beginRange sid bidi m).tallied
      (BitVec.ofNat 64 (s.session.streamBytesReceived.toNat + n)) s.reply := by
  rw [hs.beginRange_eq, hs.beginRange_eq]
  rfl

/-- The bytes raise no violation on `sid`; how many bytes are counted before them makes no difference. -/
def Decodes (s : State) (sid : StreamId) (bidi : Bool) (bytes : List Byte) : Prop :=
  ∃ u c, decodeBytes sid bytes false (s.beginRange sid bidi 0) = .ok u c

/-- A first part of bytes that raise no violation, followed by more of them, does not complete a frame. -/
theorem Decodes.split {s : State} {sid : StreamId} {isLocal bidi : Bool} {xs ys : List Byte}
    (hs : TakesBytes s sid isLocal) (hd : Decodes s sid bidi (xs ++ ys)) (hys : ys ≠ []) (n : Nat) :
    ∃ t u c, decodeBytes sid xs false (s.beginRange sid bidi n) = .ok t false ∧
      decodeBytes sid ys false t = .ok u c ∧
      decodeBytes sid (xs ++ ys) false (s.beginRange sid bidi n) = .ok u c ∧
      t.dec.phase ≠ .idle ∧ t = { s.beginRange sid bidi n with dec := t.dec } := by
  obtain ⟨u, c, hu⟩ := hd
  have hwhole := decodeBytes_tallied_ok hu (BitVec.ofNat 64 (s.session.streamBytesReceived.toNat + n)) s.reply
  rw [← hs.beginRange_tallied bidi 0 n] at hwhole
  obtain ⟨t, hpart, hrest, hphase, hkept⟩ := decodeBytes_part (hs.beginRange_phase bidi n) hys hwhole
  exact ⟨t, _, c, hpart, hrest, hwhole, hphase, hkept⟩

/-- `Reply(OK)`: no bytes, fin 0 (R260). -/
def okReply : Reply := { outcome := .ok, bytes := [], fin := false }

/-- A first part of bytes that raise no violation, and more of them: the part alone ends with OK, and the rest ends as
the whole does. -/
theorem exec_deliverBytes_append {s : State} {sid : StreamId} {isLocal bidi : Bool} {xs ys : List Byte}
    (hs : TakesBytes s sid isLocal) (hd : Decodes s sid bidi (xs ++ ys)) (hxs : xs ≠ []) (hys : ys ≠ [])
    (hp : (xs ++ ys).length < 2 ^ 16)
    (hfits : s.session.streamBytesReceived.toNat + (xs ++ ys).length < 2 ^ 64) (fin : Bool) :
    ∃ t, exec (.deliverBytes sid false bidi isLocal xs) s = .next t ∧ TakesBytes t sid isLocal ∧
      t.session.streamBytesReceived.toNat = s.session.streamBytesReceived.toNat + xs.length ∧
      Decodes t sid bidi ys ∧
      exec (.deliverBytes sid fin bidi isLocal ys) t = exec (.deliverBytes sid fin bidi isLocal (xs ++ ys)) s := by
  obtain ⟨t, u, c, hpart, hrest, hwhole, hphase, hkept⟩ := hd.split hs hys xs.length
  have hne : xs ++ ys ≠ [] := List.append_ne_nil_of_left_ne_nil hxs ys
  have hlen : (xs ++ ys).length = xs.length + ys.length := List.length_append
  have hcount : t.session.streamBytesReceived.toNat = s.session.streamBytesReceived.toNat + xs.length := by
    rw [hkept, hs.beginRange_eq]
    exact Nat.mod_eq_of_lt (by omega)
  have hrec : t.record sid = some ((s.record sid).getD (newRecord bidi false)) := by
    rw [hkept]
    exact hs.beginRange_record bidi xs.length
  have ht : TakesBytes (t.withReply (some okReply)) sid isLocal := hs.afterPart hkept (some okReply)
  have hbegin (n : Nat) : (t.withReply (some okReply)).beginRange sid bidi n =
      t.tallied (BitVec.ofNat 64 (s.session.streamBytesReceived.toNat + xs.length + n)) (some okReply) := by
    rw [← hcount]
    exact State.beginRange_of_begun (s := t.withReply (some okReply)) hrec hphase bidi n
  refine ⟨t.withReply (some okReply), ?part, ht, hcount, ?decodes, ?same⟩
  case part =>
    rw [exec_deliverBytes_range hs hxs (by omega) (by omega), hpart]
    rfl
  case decodes =>
    rw [Decodes, hbegin]
    exact ⟨_, c, decodeBytes_tallied_ok hrest _ _⟩
  case same =>
    have hafter : (t.withReply (some okReply)).session.streamBytesReceived.toNat + ys.length < 2 ^ 64 := by
      rw [State.withReply_session, hcount]
      omega
    rw [exec_deliverBytes_range ht hys (by omega) hafter, exec_deliverBytes_range hs hne hp hfits, hbegin,
      hs.beginRange_tallied bidi xs.length, decodeBytes_tallied, decodeBytes_tallied, hrest, hwhole, hlen,
      ← Nat.add_assoc]
    exact ByteRun.finish_tallied sid fin (.ok u c) _ _ _

/-! Ranges delivered one after the other. -/

theorem deliverRanges_cons {s t : State} {sid : StreamId} {bidi isLocal : Bool} {bytes : List Byte}
    {rest : List (List Byte)} (hrest : rest ≠ [])
    (h : exec (.deliverBytes sid false bidi isLocal bytes) s = .next t) (fin : Bool) :
    deliverRanges sid fin bidi isLocal (bytes :: rest) s = deliverRanges sid fin bidi isLocal rest t := by
  obtain ⟨next, rest, rfl⟩ := List.exists_cons_of_ne_nil hrest
  rw [deliverRanges, h]
  simp

/-- Ranges that each break a host duty are refused one after the other, and only the last reply is left. -/
theorem deliverRanges_refused {s : State} {sid : StreamId} {isLocal : Bool} {ranges : List (List Byte)}
    (hs : Live s) (hb : HostDutyBroken s sid isLocal) (hlen : ∀ r ∈ ranges, r.length < 2 ^ 16) (hne : ranges ≠ [])
    (fin bidi : Bool) : deliverRanges sid fin bidi isLocal ranges s = answer .errIllegal s := by
  induction ranges generalizing s with
  | nil => exact absurd rfl hne
  | cons bytes rest ih =>
    have hbytes : bytes.length < 2 ^ 16 := hlen bytes List.mem_cons_self
    by_cases hrest : rest = []
    · subst hrest
      exact exec_deliverBytes_refused hs hbytes hb fin bidi
    · rw [deliverRanges_cons hrest (exec_deliverBytes_refused hs hbytes hb false bidi)]
      exact ih hs ((hostDutyBroken_congr rfl rfl isLocal).2 hb) (fun r hr => hlen r (List.mem_cons_of_mem _ hr)) hrest

/-- Non-empty ranges whose bytes raise no violation end as the bytes delivered whole. -/
theorem deliverRanges_eq_whole {s : State} {sid : StreamId} {isLocal bidi : Bool} {ranges : List (List Byte)}
    (hs : TakesBytes s sid isLocal) (hd : Decodes s sid bidi ranges.flatten) (hne : ranges ≠ [])
    (hnonempty : ∀ r ∈ ranges, r ≠ []) (hp : ranges.flatten.length < 2 ^ 16)
    (hfits : s.session.streamBytesReceived.toNat + ranges.flatten.length < 2 ^ 64) (fin : Bool) :
    deliverRanges sid fin bidi isLocal ranges s = exec (.deliverBytes sid fin bidi isLocal ranges.flatten) s := by
  induction ranges generalizing s with
  | nil => exact absurd rfl hne
  | cons bytes rest ih =>
    by_cases hrest : rest = []
    · subst hrest
      rw [List.flatten_singleton]
      rfl
    · have hrestNonempty : ∀ r ∈ rest, r ≠ [] := fun r hr => hnonempty r (List.mem_cons_of_mem _ hr)
      have hflatten : rest.flatten ≠ [] := by
        obtain ⟨r, hr⟩ := List.exists_mem_of_ne_nil rest hrest
        exact fun h => hrestNonempty r hr (List.flatten_eq_nil_iff.1 h r hr)
      rw [List.flatten_cons] at hd hp hfits ⊢
      obtain ⟨t, hpart, ht, hcount, hdt, hsame⟩ :=
        exec_deliverBytes_append hs hd (hnonempty bytes List.mem_cons_self) hflatten hp hfits fin
      rw [List.length_append] at hp hfits
      rw [deliverRanges_cons hrest hpart, ← hsame]
      exact ih ht hdt hrest hrestNonempty (by omega) (by omega)

/-- The bytes of a frame raise no violation from D_IDLE. -/
theorem Decodes.frame {s : State} {sid : StreamId} {isLocal : Bool} {pfx padding : List Byte}
    (hs : TakesBytes s sid isLocal) (hidle : s.dec.phase = .idle) (h0 : s.dec.scratchLen = 0)
    (hframe : IsFrame pfx padding) (b : Byte) (bidi : Bool) : Decodes s sid bidi (pfx ++ padding ++ [b]) := by
  have hphase : (s.beginRange sid bidi 0).dec.phase = .len := by
    rw [hs.beginRange_eq]
    exact if_pos hidle
  have hscratch : (s.beginRange sid bidi 0).dec.scratchLen = 0 := by
    rw [hs.beginRange_eq]
    exact h0
  obtain ⟨u, hu⟩ := decodeBytes_frame hphase hscratch (hs.beginRange_record bidi 0) hframe b false
  exact ⟨u, true, hu⟩

/-- Settles O27, by induction on the ranges: where R121 refuses the stream it refuses every range; otherwise each range
but the last ends with OK inside the frame, and the reply and the counter are all that tells its state from the one the
whole delivery passes through. -/
theorem splitInvariance : Obligations.SplitInvariance := by
  intro s sid fin bidi isLocal pfx padding b ranges hs hcoh hidle hfresh hframe hnonempty hflatten hfits
  have hp : (pfx ++ padding ++ [b]).length < 2 ^ 16 := hframe.length_lt b
  have hne : ranges ≠ [] := by
    rintro rfl
    simp at hflatten
  by_cases hb : HostDutyBroken s sid isLocal
  case pos =>
    have hlen : ∀ r ∈ ranges, r.length < 2 ^ 16 := fun r hr =>
      ((List.sublist_flatten_of_mem hr).length_le.trans_eq (congrArg List.length hflatten)).trans_lt hp
    rw [deliverRanges_refused hs hb hlen hne, exec_deliverBytes_refused hs hp hb]
  case neg =>
    have htakes : TakesBytes s sid isLocal := ⟨hs, hb, hfresh, .inl hidle⟩
    obtain ⟨-, ⟨-, -, -, hscratch, -⟩, -⟩ := hcoh
    have hd := Decodes.frame htakes hidle (hscratch hidle) hframe b bidi
    rw [← hflatten] at hd hp hfits ⊢
    exact deliverRanges_eq_whole htakes hd hne hnonempty hp hfits fin

end Sys2Proof.Machine
end

section
/-! PROOFS. The family of spec/41_encoder.md: an offer with nothing to send (R151), the padding decision (R152), and the
offer that reaches the frame's end (R154, R156, R157). -/

namespace Sys2Proof.Machine

/-! What a live block does with an offer (R150, R151). -/

/-- A live block answers an offer it has nothing for with OK, and otherwise writes the frame of the queued baton. -/
theorem exec_requestSend_live {s : State} (hs : Live s) (sid : StreamId) (m : BitVec 16) :
    exec (.requestSend sid m) s =
      if s.session.activeSend ≠ some sid ∨ m = 0 then answer .ok s
      else
        needed .batonOut s.session.batonOut fun b =>
          writeFrame sid (s.enc.paddingRequired.getD (choosePadding b m.toNat)) b m.toNat s :=
  checked_run (i := .requestSend sid m) hs.1 rfl hs.2 fun s =>
    if s.session.activeSend ≠ some sid ∨ m = 0 then answer .ok s
    else
      needed .batonOut s.session.batonOut fun b =>
        writeFrame sid (s.enc.paddingRequired.getD (choosePadding b m.toNat)) b m.toNat s

theorem exec_requestSend_nothing {s : State} {sid : StreamId} {m : BitVec 16} (hs : Live s)
    (h : s.session.activeSend ≠ some sid ∨ m = 0) : exec (.requestSend sid m) s = answer .ok s := by
  rw [exec_requestSend_live hs, if_pos h]

theorem exec_requestSend_queued {s : State} {sid : StreamId} {m : BitVec 16} {b : Byte} (hs : Live s)
    (hsend : s.session.activeSend = some sid) (hm : m ≠ 0) (hb : s.session.batonOut = some b) :
    exec (.requestSend sid m) s =
      writeFrame sid (s.enc.paddingRequired.getD (choosePadding b m.toNat)) b m.toNat s := by
  have hqueued : ¬ (s.session.activeSend ≠ some sid ∨ m = 0) := not_or.2 ⟨not_not_intro hsend, hm⟩
  rw [exec_requestSend_live hs, if_neg hqueued, hb, needed_some]

/-- Settles O29: with no frame queued there is none queued on the stream named, so R151's three cases are the model's
two. -/
theorem nothingToSend : Obligations.NothingToSend := by
  intro s sid m hs h
  have hnothing : s.session.activeSend ≠ some sid ∨ m = 0 := by
    rcases h with hnone | hother | hzero
    · exact .inl (by simp [hnone])
    · exact .inl hother
    · exact .inr hzero
  rw [exec_requestSend_nothing hs hnothing]
  rfl

/-! The padding decision (R152). -/

@[simp] theorem Encoder.advance_paddingRequired (e : Encoder) (p : PadLen) (k : Nat) :
    (e.advance p k).paddingRequired = e.paddingRequired := rfl

/-- Writing with padding length `p` records `p` as the decision, whether or not the frame is completed. -/
theorem writeFrame_records_decision {sid : StreamId} {p : PadLen} {b : Byte} {m : Nat} {s t : State}
    (h : writeFrame sid p b m s = .next t) : t.enc.paddingRequired = some p := by
  obtain ⟨u, rfl, ⟨-, rec, -, rfl⟩ | ⟨-, rfl⟩⟩ := writeFrame_next h
  · simp
  · simp

/-- Settles O30: an offer writes with the decision already made, and with the choice by its own size where there is
none. -/
theorem paddingDecision : Obligations.PaddingDecision := by
  refine ⟨fun m _ => choosePadding_zero m, fun _ hb => choosePadding_one hb,
    fun _ _ hb hm => choosePadding_two_le hb hm, fun s t sid m b hs hsend hm hb h => ?decision⟩
  rw [exec_requestSend_queued hs hsend hm hb] at h
  have hdecision := writeFrame_records_decision h
  refine ⟨fun hnone => ?first, fun p hp => ?later⟩
  case first => rw [hdecision, hnone, Option.getD_none]
  case later => rw [hdecision, hp, Option.getD_some]

/-! The offer that reaches the frame's end (R154, R156, R157). -/

/-- The bytes counted as written fit a frame with padding length `p`: no more of its encoded length and of its padding
than it has. -/
structure Encoder.Within (e : Encoder) (p : PadLen) : Prop where
  prefixSent_le : e.prefixSent ≤ (varint p.toNat).length
  paddingSent_le : e.paddingSent.toNat ≤ p.toNat

/-- Under R158 the encoder is within the frame it writes: of a frame not yet decided nothing is written. -/
theorem EncoderCoherent.within {s : State} (h : EncoderCoherent s) (choice : PadLen) :
    s.enc.Within (s.enc.paddingRequired.getD choice) := by
  obtain ⟨-, hundecided, hdecided⟩ := h
  cases hp : s.enc.paddingRequired with
  | none =>
    obtain ⟨hprefix, hpadding⟩ := hundecided hp
    exact ⟨by simp [hprefix], by simp [hpadding]⟩
  | some p =>
    obtain ⟨hpadding, hprefix⟩ := hdecided p hp
    exact ⟨hprefix.le, hpadding⟩

/-- The baton byte is not among the bytes counted as written. -/
theorem Encoder.Within.written_lt {e : Encoder} {p : PadLen} (h : e.Within p) (b : Byte) :
    e.written < (frame p.toNat b).length := by
  obtain ⟨hprefix, hpadding⟩ := h
  rw [length_frame, Encoder.written]
  omega

/-- Advancing over the rest of the frame leaves the whole encoded length and the whole padding sent. -/
theorem Encoder.Within.advance_rest {e : Encoder} {p : PadLen} (h : e.Within p) (b : Byte) :
    e.advance p ((frame p.toNat b).length - e.written) =
      { e with prefixSent := (varint p.toNat).length, paddingSent := p } := by
  obtain ⟨hprefix, hpadding⟩ := h
  have hrest : (frame p.toNat b).length - e.written =
      ((varint p.toNat).length - e.prefixSent) + ((p.toNat - e.paddingSent.toNat) + 1) := by
    rw [length_frame, Encoder.written]
    omega
  simp only [Encoder.advance, hrest, Nat.min_eq_right (Nat.le_add_right _ _), Nat.add_sub_cancel_left,
    Nat.add_sub_cancel' hprefix, Nat.add_sub_cancel' hpadding, BitVec.ofNat_toNat, BitVec.setWidth_eq]

/-- An offer at least as large as the rest of the frame takes the rest. -/
theorem sendCount_rest {e : Encoder} {f : List Byte} {m : Nat} (h : f.length ≤ e.written + m) :
    sendCount e f m = f.length - e.written :=
  Nat.min_eq_right (Nat.sub_le_iff_le_add'.2 h)

theorem sendBytes_rest {e : Encoder} {f : List Byte} {m : Nat} (h : f.length ≤ e.written + m) :
    sendBytes e f m = f.drop e.written := by
  rw [sendBytes, sendCount_rest h, ← List.length_drop, List.take_length]

/-- The write that reaches the frame's end: the rest of the frame with fin 1, and completion. -/
theorem writeFrame_completes {s : State} {sid : StreamId} {p : PadLen} {b : Byte} {m : Nat} {rec : StreamRecord}
    (hwithin : s.enc.Within p) (hrec : s.record sid = some rec)
    (hend : (frame p.toNat b).length ≤ s.enc.written + m) :
    writeFrame sid p b m s = .next
      (((s.onEnc fun _ =>
          { paddingRequired := some p, prefixSent := (varint p.toNat).length, paddingSent := p }).completeFrame
        sid rec).replied .ok ((frame p.toNat b).drop s.enc.written) true) := by
  have hreaches : s.enc.written + sendCount s.enc (frame p.toNat b) m = (frame p.toNat b).length := by
    rw [sendCount_rest hend, Nat.add_sub_cancel' (hwithin.written_lt b).le]
  have hdecided : ({ s.enc with paddingRequired := some p } : Encoder).Within p :=
    ⟨hwithin.prefixSent_le, hwithin.paddingSent_le⟩
  have hadvance : ({ s.enc with paddingRequired := some p } : Encoder).advance p
      (sendCount s.enc (frame p.toNat b) m) =
        { paddingRequired := some p, prefixSent := (varint p.toNat).length, paddingSent := p } := by
    rw [sendCount_rest hend]
    exact hdecided.advance_rest b
  simp only [writeFrame, State.onEnc, if_pos hreaches, hadvance, sendBytes_rest hend]
  exact withRecord_some hrec _

/-- Settles O32: by R158 the encoder is within its frame, so the write is the completing one, field for field. -/
theorem finalSendCompletesTheFrame : Obligations.FinalSendCompletesTheFrame := by
  intro s sid m b p rec hs hcoh hsend hm hb hp hrec hend
  have hwithin : s.enc.Within p := hp ▸ EncoderCoherent.within hcoh _
  rw [exec_requestSend_queued hs hsend hm hb, ← hp, writeFrame_completes hwithin hrec hend]
  rfl

end Sys2Proof.Machine
end

section
/-! PROOFS. The family of spec/42_session_fsm.md: the gating of the commands (R175), the sequence check (R181, R182),
and the registers of an accepted turn (R183 to R186). -/

namespace Sys2Proof.Machine

/-! The gating of the commands (R175). -/

/-- The session states in which a command with this opcode is accepted (R174, R175). -/
def acceptedIn : Opcode → SessionState → Bool
  | .accept | .connect => noSession
  | .deregister => sessionExists
  | .deliverBytes | .requestSend | .deliverDatagram | .requestDatagram | .notifyReset | .idleTimeout => inSession

/-- Every command begins with the checks of R263, the gating among them by its opcode. -/
theorem exec_eq_checked (i : Instr) (s : State) : ∃ body, exec i s = checked i (acceptedIn i.opcode) s body := by
  cases i <;>
    simp only [exec, execAccept, execConnect, execDeregister, execDeliverBytes, execRequestSend, execDeliverDatagram,
      execRequestDatagram, execNotifyReset, execIdleTimeout] <;>
    exact ⟨_, rfl⟩

theorem checked_notActive {i : Instr} {accepts : SessionState → Bool} {s : State} (hf : s.fault = none)
    (hw : i.wf = true) (ha : accepts s.session.state = false) (body : State → Result) :
    checked i accepts s body = answer .errNotActive s := by
  simp [checked, hf, hw, ha]

theorem exec_notActive {i : Instr} {s : State} (hf : s.fault = none) (hw : i.wf = true)
    (ha : acceptedIn i.opcode s.session.state = false) : exec i s = answer .errNotActive s := by
  obtain ⟨body, hbody⟩ := exec_eq_checked i s
  rw [hbody, checked_notActive hf hw ha]

/-- The gating table refuses exactly the three groups that R175 lists. -/
theorem acceptedIn_eq_false_iff (op : Opcode) (st : SessionState) :
    acceptedIn op st = false ↔
      (st = .idle ∧ op ∉ [.accept, .connect]) ∨ (st = .closed ∧ op ≠ .deregister) ∨
        (st ≠ .idle ∧ op ∈ [.accept, .connect]) := by
  cases op <;> cases st <;> decide

/-- Settles O11: the three groups are what the gating table refuses, and a refusal is the reply alone. -/
theorem gatingRefuses : Obligations.GatingRefuses := by
  intro i s hf hw hrefused
  exact exec_notActive hf hw ((acceptedIn_eq_false_iff _ _).2 hrefused)

/-! The arithmetic of bytes as arithmetic modulo 256 (R10, R187). -/

theorem toNat_add8 (x y : Byte) : (add8 x y).toNat = (x.toNat + y.toNat) % 256 := BitVec.toNat_add x y

theorem add8_eq_ofNat (x y : Byte) : add8 x y = BitVec.ofNat 8 ((x.toNat + y.toNat) % 256) := by
  rw [← toNat_add8, BitVec.ofNat_toNat, BitVec.setWidth_eq]

/-- In sequence: the previous baton plus 1, modulo 256 (R182). -/
theorem eq_add8_one_iff (b prev : Byte) : b = add8 prev 1 ↔ b.toNat = (prev.toNat + 1) % 256 := by
  rw [← BitVec.toNat_inj, toNat_add8]
  rfl

/-- The corrupted baton as a number (R184). -/
theorem corruptBaton_eq_ofNat (b : Byte) :
    corruptBaton b = BitVec.ofNat 8 (if (b.toNat + 31) % 256 = 0 then 1 else (b.toNat + 31) % 256) := by
  have hzero : add8 b Config.corruptAdd = 0 ↔ (b.toNat + 31) % 256 = 0 := by
    rw [← BitVec.toNat_inj, toNat_add8]
    rfl
  by_cases h : (b.toNat + 31) % 256 = 0
  · rw [corruptBaton, if_pos (hzero.2 h), if_pos h]
    rfl
  · rw [corruptBaton, if_neg (mt hzero.1 h), if_neg h, add8_eq_ofNat]
    rfl

/-! The sequence check (R181, R182). -/

/-- Past the zero test, the turn check is the sequence check. -/
theorem turnCheck_of_ne_zero {s : State} {b : Byte} {r : StreamId} (hb : s.session.batonIn = some b)
    (hr : s.session.activeRecv = some r) (h0 : b ≠ 0) : turnCheck s = sequenceCheck b r s := by
  rw [turnCheck, hb, hr, needed_some, needed_some, if_neg h0]

theorem sequenceCheck_accepts {s : State} {b : Byte} (r : StreamId)
    (h : s.session.firstBaton = none ∨ ∃ prev, s.session.batonOut = some prev ∧ b = add8 prev 1) :
    sequenceCheck b r s = acceptTurn b r s := by
  cases hfirst : s.session.firstBaton with
  | none => simp only [sequenceCheck, hfirst]
  | some first =>
    obtain ⟨prev, hprev, hnext⟩ := h.resolve_left (by simp [hfirst])
    simp only [sequenceCheck, hfirst, hprev, needed_some, if_pos hnext]

theorem sequenceCheck_violation {s : State} {b first prev : Byte} (r : StreamId)
    (hfirst : s.session.firstBaton = some first) (hprev : s.session.batonOut = some prev) (hb : b ≠ add8 prev 1) :
    sequenceCheck b r s =
      closeSession .malformed .errSequence (s.onSession fun x => { x with state := .protocolError }) := by
  simp only [sequenceCheck, hfirst, hprev, needed_some, if_neg hb]

/-- The close procedure where the control stream is not finished: the close message, then CLOSED (R220). -/
theorem State.closeOn_of_unfinished {rec : StreamRecord} (h : rec.finSent = false) (s : State) (c : StreamId)
    (code : CloseCode) : s.closeOn c rec code = (s.sendClose c rec code).markClosed := by
  simp [State.closeOn, h]

/-- Settles O35: the sequence check fails, and the close it raises sends its message and overwrites PROTOCOL_ERROR. -/
theorem sequenceViolationCloses : Obligations.SequenceViolationCloses := by
  intro s b prev first r c crec hb hr h0 hfirst hprev hout hc hrec hopen
  have hviolation : b ≠ add8 prev 1 := mt (eq_add8_one_iff b prev).1 hout
  have hcontrol : (s.onSession fun x => { x with state := .protocolError }).session.controlStreamId = some c := hc
  rw [turnCheck_of_ne_zero hb hr h0, sequenceCheck_violation r hfirst hprev hviolation,
    closeSession_run hcontrol hrec, State.closeOn_of_unfinished hopen]
  rfl

/-! Step 3, the registers of an accepted turn (R183 to R185). -/

theorem isTerminal_iff (n turns : Counter) : isTerminal n turns = true ↔ n.toNat ≤ turns.toNat := decide_eq_true_iff

theorem corrupts_iff (n turns : Counter) : corrupts n turns = true ↔ n.toNat = 257 ∧ 4 ≤ turns.toNat := by
  have htrigger : corruptActive n = true ↔ n.toNat = 257 := by
    rw [corruptActive, beq_iff_eq, ← BitVec.toNat_inj]
    rfl
  rw [corrupts, Bool.and_eq_true, htrigger, decide_eq_true_iff]
  rfl

/-- The next baton as a number: terminal, then corrupted, then plus 1. -/
theorem nextBaton_eq_ofNat (n turns : Counter) (b : Byte) :
    nextBaton n turns b = BitVec.ofNat 8
      (if n.toNat ≤ turns.toNat then 0
       else if n.toNat = 257 ∧ 4 ≤ turns.toNat then
         (if (b.toNat + 31) % 256 = 0 then 1 else (b.toNat + 31) % 256)
       else (b.toNat + 1) % 256) := by
  simp only [nextBaton, isTerminal_iff, corrupts_iff, apply_ite (BitVec.ofNat 8), corruptBaton_eq_ofNat, add8_eq_ofNat]
  rfl

theorem nextState_eq (n turns : Counter) :
    nextState n turns = if n.toNat ≤ turns.toNat then .done else .sent := by
  simp only [nextState, isTerminal_iff]

/-! Step 4, the arming of the datagram (R186, R240). -/

theorem armsDatagram_iff {b : Byte} (h0 : b ≠ 0) (role : Role) :
    armsDatagram b role = true ↔ b.toNat % 7 = role.ident := by
  have hne : (!(b == 0)) = true := by simpa using h0
  rw [armsDatagram, hne, Bool.and_true, beq_iff_eq]
  rfl

/-- Step 4 for a baton other than 0: where `b mod 7` is the role's identity the value is held and announced. -/
theorem State.mirrorBaton_eq {b : Byte} (h0 : b ≠ 0) (s : State) (role : Role) :
    s.mirrorBaton b role = { s with
      dgram := if b.toNat % 7 = role.ident then { s.dgram with nextValue := some b, ready := true } else s.dgram
      log := s.log ++ (if b.toNat % 7 = role.ident then [.datagramReady] else []) } := by
  by_cases h : b.toNat % 7 = role.ident
  · simp only [State.mirrorBaton, if_pos ((armsDatagram_iff h0 role).2 h), if_pos h]
    rfl
  · simp only [State.mirrorBaton, if_neg (mt (armsDatagram_iff h0 role).1 h), if_neg h, List.append_nil]

/-! Steps 3 to 5 together. -/

theorem acceptTurn_counted {s : State} {turns n : Counter} {role : Role} (b : Byte) (r : StreamId)
    (hcount : addCounter s.session.turnCount 1 = some turns) (hn : s.session.turnsRequired = some n)
    (hrole : s.session.role = some role) :
    acceptTurn b r s = dispatchTurn (some r)
      (((s.noteFirst b).onSession fun x =>
        { x with turnCount := turns, batonOut := some (nextBaton n turns b), state := nextState n turns }).mirrorBaton
        b role) := by
  simp only [acceptTurn, hcount, hn, hrole, needed_some]

theorem acceptTurn_overflow {s : State} (b : Byte) (r : StreamId) (h : 2 ^ 64 ≤ s.session.turnCount.toNat + 1) :
    acceptTurn b r s = raiseFault .counterOverflow (s.noteFirst b) := by
  simp only [acceptTurn, addCounter_none.2 h]

/-- Settles O36: the sequence check accepts, and the turn counter decides between steps 3 to 5 and the fault. -/
theorem acceptedTurnUpdates : Obligations.AcceptedTurnUpdates := by
  intro s b r n role hb hr h0 hn hrole haccepted
  have haccepts : s.session.firstBaton = none ∨ ∃ prev, s.session.batonOut = some prev ∧ b = add8 prev 1 := by
    simpa only [eq_add8_one_iff] using haccepted
  rw [turnCheck_of_ne_zero hb hr h0, sequenceCheck_accepts r haccepts]
  refine ⟨fun hlt => ?counted, fun hmax => ?overflow⟩
  case counted =>
    have hcount := addCounter_of_lt hlt
    obtain ⟨-, hturns⟩ := addCounter_some hcount
    rw [acceptTurn_counted b r hcount hn hrole, State.mirrorBaton_eq h0, nextBaton_eq_ofNat, nextState_eq, hturns]
    rfl
  case overflow =>
    rw [acceptTurn_overflow b r hmax.ge]
    rfl

end Sys2Proof.Machine
end

section
/-! PROOFS. The family of spec/43_dispatcher.md: the failed open (R207) and the overlap fault (R206). -/

namespace Sys2Proof.Machine

/-! The ways through a dispatch (R200). -/

theorem dispatchTurn_overlap {s : State} (h : s.session.activeSend ≠ none) (inbound : Option StreamId) :
    dispatchTurn inbound s = raiseFault .turnOverlap s := by
  obtain ⟨queued, hqueued⟩ := Option.ne_none_iff_exists'.1 h
  simp only [dispatchTurn, hqueued]

/-- With no frame queued, the record of the inbound stream decides the dispatch. -/
theorem dispatchTurn_inbound {s : State} {r : StreamId} {rec : StreamRecord} (hidle : s.session.activeSend = none)
    (hrec : s.record r = some rec) : dispatchTurn (some r) s = dispatchInbound r rec s := by
  simp only [dispatchTurn, hidle]
  exact withRecord_some hrec _

theorem dispatchInbound_newStream {s : State} {rec : StreamRecord} {bidi : Bool} (r : StreamId)
    (hroute : selectRoute s.cfg.bidiDispatch (some rec) = if bidi then .newBidi else .newUni) :
    dispatchInbound r rec s = openAndArm bidi s := by
  cases bidi <;> simp [dispatchInbound, hroute]

theorem openAndArm_openFailed {s : State} (h : s.openAnswer = none) (bidi : Bool) :
    openAndArm bidi s = closeSession .insufficientStreamCredit .errNoCredit (s.emit (openEvent bidi none)) := by
  simp only [openAndArm, h]

/-- Settles O39: the route opens a stream, the open fails, and the close it raises sends its message after the open
event. -/
theorem dispatchOpenFailureCloses : Obligations.DispatchOpenFailureCloses := by
  intro s r c rec crec bidi hidle hrec hroute hfail hc hcrec hopen
  rw [dispatchTurn_inbound hidle hrec, dispatchInbound_newStream r hroute, openAndArm_openFailed hfail,
    closeSession_run (s := s.emit (openEvent bidi none)) hc hcrec, State.closeOn_of_unfinished hopen]
  have hlog : (((s.emit (openEvent bidi none)).sendClose c crec .insufficientStreamCredit).markClosed).log =
      s.log ++ [if bidi then .openBidi none else .openUni none,
        .sendClose c .insufficientStreamCredit s.cfg.reasons.insufficientStreamCredit] := by
    simp [openEvent, reasonOf]
  rw [← hlog]
  rfl

/-! What each part of a dispatch can do to the fault register. -/

theorem closeSession_fault {code : CloseCode} {o : OutcomeCode} {s t : State}
    (h : closeSession code o s = .next t) : t.fault = s.fault := by
  obtain ⟨c, rec, -, -, rfl⟩ := closeSession_next h
  rw [State.replied_fault, State.closeOn_fault]

theorem armStream_fault {sid : StreamId} {s t : State} (h : armStream sid s = .next t) :
    t.fault = s.fault ∨ t.fault = some .counterOverflow := by
  rcases armStream_next h with ⟨-, rfl⟩ | ⟨turns, -, rfl⟩
  · exact .inr rfl
  · exact .inl rfl

theorem openAndArm_fault {bidi : Bool} {s t : State} (h : openAndArm bidi s = .next t) :
    t.fault = s.fault ∨ t.fault = some .counterOverflow := by
  rcases openAndArm_next h with ⟨-, hclose⟩ | ⟨sid, control, -, -, harm⟩
  · rw [closeSession_fault hclose, State.emit_fault]
    exact .inl rfl
  · have harmed := armStream_fault harm
    rwa [State.headStream_fault, State.emit_fault] at harmed

theorem armSame_fault {sid : StreamId} {rec : StreamRecord} {s t : State} (h : armSame sid rec s = .next t) :
    t.fault = s.fault ∨ t.fault = some .counterOverflow ∨ t.fault = some .sendAfterFin := by
  rw [armSame] at h
  split at h
  · rw [raiseFault_next h]
    exact .inr (.inr rfl)
  · exact (armStream_fault h).imp_right .inl

theorem dispatchTurn_fault {inbound : Option StreamId} {s t : State} (hidle : s.session.activeSend = none)
    (h : dispatchTurn inbound s = .next t) :
    t.fault = s.fault ∨ t.fault = some .counterOverflow ∨ t.fault = some .sendAfterFin := by
  rcases dispatchTurn_next h with ⟨hqueued, -⟩ | ⟨-, bidi, hopen⟩ | ⟨-, sid, rec, -, -, -, hsame⟩
  · exact absurd hidle hqueued
  · exact (openAndArm_fault hopen).imp_right .inl
  · exact armSame_fault hsame

/-- Settles O41: the overlap test comes first, and past it the only faults a dispatch can raise are COUNTER_OVERFLOW
and SEND_AFTER_FIN. -/
theorem dispatchOverlapFaults : Obligations.DispatchOverlapFaults := by
  intro s inbound
  refine ⟨fun hqueued => dispatchTurn_overlap hqueued inbound, fun hidle hnone t h => ?noOverlap⟩
  rcases dispatchTurn_fault hidle h with hkept | hraised | hraised
  · simp [hkept, hnone]
  · simp [hraised]
  · simp [hraised]

end Sys2Proof.Machine
end

section
/-! PROOFS. The family of spec/45_datagram.md: the largest padding of a datagram and the draw of a padding length
(R243). -/

namespace Sys2Proof.Machine

/-! The lengths of the encodings (R63, R102). -/

@[simp] theorem length_bigEndian (n v : Nat) : (bigEndian n v).length = n := by
  induction n generalizing v with
  | zero => rfl
  | succ n ih => rw [bigEndian, List.length_append, ih, List.length_singleton]

/-- A padding length of at most 63 is announced in one byte (R102). -/
theorem length_varint_one {v : Nat} (h : v ≤ Config.pad1bMax) : (varint v).length = 1 := by
  rw [varint, if_pos h, length_bigEndian]

/-- A padding length from 64 to 16383 is announced in two bytes (R102). -/
theorem length_varint_two {v : Nat} (hlow : Config.pad1bMax < v) (hhigh : v ≤ Config.pad2bMax) :
    (varint v).length = 2 := by
  rw [varint, if_neg (Nat.not_le.2 hlow), if_pos hhigh, length_bigEndian]

/-! The two formulas of R243. -/

theorem pmax_oneByte {cap : Nat} (h : cap ≤ 66) : pmax cap = min (cap - 2) 63 := if_pos h

theorem pmax_twoByte {cap : Nat} (h : 67 ≤ cap) : pmax cap = cap - 3 := if_neg (Nat.not_le.2 h)

/-- A padding length is at most `pmax(cap)` exactly where its datagram fits the cap (R243). -/
theorem le_pmax_iff {cap : Nat} (hmin : 2 ≤ cap) (hmax : cap ≤ 1536) (p : Nat) :
    p ≤ pmax cap ↔ (varint p).length + p + 1 ≤ cap := by
  have hpmax : (cap ≤ 66 ∧ pmax cap = min (cap - 2) 63) ∨ (67 ≤ cap ∧ pmax cap = cap - 3) :=
    (Nat.lt_or_ge 66 cap).symm.imp (fun h => ⟨h, pmax_oneByte h⟩) (fun h => ⟨h, pmax_twoByte h⟩)
  rcases Nat.lt_or_ge 63 p with hlong | hshort
  · rcases Nat.lt_or_ge 16383 p with hpast | htwo
    · -- Whatever its prefix, so long a padding alone passes the cap.
      omega
    · rw [length_varint_two hlong htwo]
      omega
  · rw [length_varint_one hshort]
    omega

/-! The draw of a padding length (R242): reduced modulo `pmax + 1`. -/

/-- A draw within the bound is the padding length itself. -/
theorem dgramBytes_of_le {m pad : BitVec 16} (h : pad.toNat ≤ pmax (dgramCap m)) (v : Byte) :
    dgramBytes m pad v = frame pad.toNat v := by
  rw [dgramBytes, Nat.mod_eq_of_lt (Nat.lt_succ_of_le h)]

/-- Every draw gives a padding length within the bound. -/
theorem dgramBytes_eq_frame (m pad : BitVec 16) (v : Byte) :
    ∃ p, p ≤ pmax (dgramCap m) ∧ dgramBytes m pad v = frame p v :=
  ⟨_, Nat.le_of_lt_succ (Nat.mod_lt _ (Nat.succ_pos _)), rfl⟩

/-- Settles O48: a padding length fits the cap exactly where it is at most `pmax`, and reducing a draw modulo `pmax + 1`
keeps the draws up to `pmax` and bounds the others. -/
theorem pmaxIsTheLargestPadding : Obligations.PmaxIsTheLargestPadding := by
  refine ⟨fun cap hmin hmax => ⟨?fits, fun p hp => ?largest, pmax_oneByte, pmax_twoByte, ?atCap⟩,
    fun m pad v => ⟨fun h => dgramBytes_of_le h v, dgramBytes_eq_frame m pad v⟩⟩
  case fits => exact (le_pmax_iff hmin hmax _).1 (Nat.le_refl _)
  case largest => exact Nat.lt_of_not_le fun hfit => Nat.not_le.2 hp ((le_pmax_iff hmin hmax p).2 hfit)
  case atCap =>
    rintro rfl
    rw [pmax_twoByte (by decide)]

end Sys2Proof.Machine
end

section
/-! PROOFS. The family of spec/60_exceptions.md: every command ends with one reply (R260) or with a recorded model
fault and none (R270). -/

namespace Sys2Proof.Machine

/-! The two ways a command ends. -/

/-- A command that ends in `t` has recorded a model fault and gives no reply, or gives a reply that meets `P`. -/
inductive EndsWith (P : Reply → Prop) (t : State) : Prop where
  | faulted (hfault : t.fault ≠ none) (hreply : t.reply = none)
  | replied (r : Reply) (hfault : t.fault = none) (hreply : t.reply = some r) (hr : P r)

/-- A reply with no bytes and fin 0 (R260). -/
def Reply.Plain (r : Reply) : Prop := r.bytes = [] ∧ r.fin = false

/-- What R260 and R242 let a command with this opcode put into its reply. -/
def Reply.Allowed (op : Opcode) (r : Reply) : Prop :=
  (op ∉ [.requestSend, .requestDatagram] → r.Plain) ∧ (op = .requestDatagram → r.fin = false)

theorem Reply.Plain.allowed {r : Reply} (h : r.Plain) (op : Opcode) : r.Allowed op := ⟨fun _ => h, fun _ => h.2⟩

theorem EndsWith.mono {P Q : Reply → Prop} {t : State} (hPQ : ∀ r, P r → Q r) (h : EndsWith P t) : EndsWith Q t := by
  cases h with
  | faulted hfault hreply => exact .faulted hfault hreply
  | replied r hfault hreply hr => exact .replied r hfault hreply (hPQ r hr)

theorem endsWith_fault (P : Reply → Prop) (s : State) (kind : ModelFault) :
    EndsWith P { s with fault := some kind, reply := none } :=
  .faulted (Option.some_ne_none kind) rfl

theorem endsWith_replied {P : Reply → Prop} {s : State} {o : OutcomeCode} {bytes : List Byte} {fin : Bool}
    (hf : s.fault = none) (h : P { outcome := o, bytes := bytes, fin := fin }) : EndsWith P (s.replied o bytes fin) :=
  .replied _ hf rfl h

/-- `Reply(outcome)` is a plain reply. -/
theorem endsWith_replied_plain {s : State} {o : OutcomeCode} (hf : s.fault = none) :
    EndsWith Reply.Plain (s.replied o [] false) := endsWith_replied hf ⟨rfl, rfl⟩

theorem answer_endsPlain {o : OutcomeCode} {s t : State} (h : answer o s = .next t) (hf : s.fault = none) :
    EndsWith Reply.Plain t := by
  rw [answer_next h]
  exact endsWith_replied_plain hf

/-- The checks of R263 end a command with a plain reply; past them, the body ends it. -/
theorem checked_endsWith {P : Reply → Prop} {i : Instr} {accepts : SessionState → Bool} {s t : State}
    {body : State → Result} (hplain : ∀ r : Reply, r.Plain → P r) (h : checked i accepts s body = .next t)
    (hbody : s.fault = none → body s = .next t → EndsWith P t) : EndsWith P t := by
  rcases checked_cases i accepts s body with ⟨kind, -, hc⟩ | ⟨hf, -, hc⟩ | ⟨hf, -, -, hc⟩ | ⟨hf, -, -, hc⟩
  · rw [hc] at h
    cases h
  · exact (answer_endsPlain (hc.symm.trans h) hf).mono hplain
  · exact (answer_endsPlain (hc.symm.trans h) hf).mono hplain
  · exact hbody hf (hc.symm.trans h)

/-- A halted block has no next state (R270). -/
theorem exec_next_not_halted {i : Instr} {s t : State} (h : exec i s = .next t) : s.fault = none := by
  obtain ⟨body, hbody⟩ := exec_eq_checked i s
  rcases checked_cases i (acceptedIn i.opcode) s body with ⟨kind, -, hc⟩ | ⟨hf, -⟩ | ⟨hf, -⟩ | ⟨hf, -⟩
  · rw [hbody, hc] at h
    cases h
  · exact hf
  · exact hf
  · exact hf

/-! The close procedure and the dispatcher. -/

theorem closeSession_endsPlain {code : CloseCode} {o : OutcomeCode} {s t : State}
    (h : closeSession code o s = .next t) (hf : s.fault = none) : EndsWith Reply.Plain t := by
  obtain ⟨c, rec, -, -, rfl⟩ := closeSession_next h
  exact endsWith_replied_plain ((State.closeOn_fault ..).trans hf)

theorem armStream_endsPlain {sid : StreamId} {s t : State} (h : armStream sid s = .next t) (hf : s.fault = none) :
    EndsWith Reply.Plain t := by
  rcases armStream_next h with ⟨-, rfl⟩ | ⟨turns, -, rfl⟩
  · exact endsWith_fault _ s _
  · exact endsWith_replied_plain hf

theorem openAndArm_endsPlain {bidi : Bool} {s t : State} (h : openAndArm bidi s = .next t) (hf : s.fault = none) :
    EndsWith Reply.Plain t := by
  rcases openAndArm_next h with ⟨-, hclose⟩ | ⟨sid, control, -, -, harm⟩
  · exact closeSession_endsPlain hclose hf
  · exact armStream_endsPlain harm hf

theorem armSame_endsPlain {sid : StreamId} {rec : StreamRecord} {s t : State}
    (h : armSame sid rec s = .next t) (hf : s.fault = none) : EndsWith Reply.Plain t := by
  rw [armSame] at h
  split at h
  · rw [raiseFault_next h]
    exact endsWith_fault _ s _
  · exact armStream_endsPlain h hf

theorem dispatchTurn_endsPlain {inbound : Option StreamId} {s t : State}
    (h : dispatchTurn inbound s = .next t) (hf : s.fault = none) : EndsWith Reply.Plain t := by
  rcases dispatchTurn_next h with ⟨-, rfl⟩ | ⟨-, bidi, hopen⟩ | ⟨-, sid, rec, -, -, -, hsame⟩
  · exact endsWith_fault _ s _
  · exact openAndArm_endsPlain hopen hf
  · exact armSame_endsPlain hsame hf

/-! The turn check. -/

theorem zeroBaton_endsPlain {r : StreamId} {rec : StreamRecord} {s t : State}
    (h : zeroBaton r rec s = .next t) (hf : s.fault = none) : EndsWith Reply.Plain t := by
  refine closeSession_endsPlain h ?_
  cases finOwed rec <;> exact hf

theorem acceptTurn_endsPlain {b : Byte} {r : StreamId} {s t : State}
    (h : acceptTurn b r s = .next t) (hf : s.fault = none) : EndsWith Reply.Plain t := by
  rcases acceptTurn_next h with ⟨-, rfl⟩ | ⟨turns, n, role, -, -, -, hdispatch⟩
  · exact endsWith_fault _ (s.noteFirst b) _
  · exact dispatchTurn_endsPlain hdispatch ((State.mirrorBaton_fault ..).trans hf)

theorem turnCheck_endsPlain {s t : State} (h : turnCheck s = .next t) (hf : s.fault = none) :
    EndsWith Reply.Plain t := by
  obtain ⟨b, r, -, -, ⟨-, rec, -, hzero⟩ | ⟨-, prev, -, -, -, hclose⟩ | ⟨-, -, haccept⟩⟩ := turnCheck_next h
  · exact zeroBaton_endsPlain hzero hf
  · exact closeSession_endsPlain hclose hf
  · exact acceptTurn_endsPlain haccept hf

/-! A delivery: the bytes leave the fault register alone, and the range ends with the turn check, a close or OK. -/

theorem decodeByte_ok_fault {sid : StreamId} {b : Byte} {s t : State} {now : Bool}
    (h : decodeByte sid b s = .ok t now) : t.fault = s.fault := by
  rcases decodeByte_ok h with ⟨-, -, m, b0, -, -, -, ⟨-, rfl⟩ | ⟨-, bs, -, rfl⟩⟩ | ⟨-, -, rfl⟩ | ⟨-, -, rec, -, rfl⟩
  · rfl
  · rfl
  · rfl
  · rfl

theorem decodeByte_violation_fault {sid : StreamId} {b : Byte} {s t : State}
    (h : decodeByte sid b s = .violation t) : t.fault = s.fault := by
  rcases decodeByte_violation h with ⟨-, rfl⟩ | ⟨-, m, b0, -, -, -, rfl⟩
  · rfl
  · rfl

@[simp] theorem State.associate_fault (s : State) (sid : StreamId) : (s.associate sid).fault = s.fault := by
  by_cases h : s.dec.phase = .idle
  · rw [State.associate_of_idle h]; rfl
  · rw [State.associate_of_not_idle h]

@[simp] theorem State.knowStream_fault (s : State) (sid : StreamId) (bidi : Bool) :
    (s.knowStream sid bidi).fault = s.fault := by rw [State.knowStream_eq]

theorem endOfRange_endsPlain {sid : StreamId} {fin c : Bool} {s t : State}
    (h : endOfRange sid fin c s = .next t) (hf : s.fault = none) : EndsWith Reply.Plain t := by
  rcases endOfRange_next h with ⟨-, -, hclose⟩ | ⟨u, hu, hend⟩
  · exact closeSession_endsPlain hclose hf
  · have hfu : u.fault = none := by
      rcases hu with ⟨rfl, -⟩ | ⟨-, -, rec, -, rfl⟩
      · exact hf
      · exact hf
    rcases hend with ⟨-, hcheck⟩ | ⟨-, rfl⟩
    · exact turnCheck_endsPlain hcheck hfu
    · exact endsWith_replied_plain hfu

theorem emptyRange_endsPlain {sid : StreamId} {fin : Bool} {s t : State}
    (h : emptyRange sid fin s = .next t) (hf : s.fault = none) : EndsWith Reply.Plain t := by
  rcases emptyRange_next h with ⟨-, rfl⟩ | ⟨-, -, -, hclose⟩ | ⟨-, rec, -, rfl⟩
  · exact endsWith_replied_plain hf
  · exact closeSession_endsPlain hclose hf
  · exact endsWith_replied_plain hf

theorem byteRange_endsPlain {sid : StreamId} {fin : Bool} {payload : List Byte} {s t : State}
    (h : byteRange sid fin payload s = .next t) (hf : s.fault = none) : EndsWith Reply.Plain t := by
  obtain ⟨hok, hviolation⟩ := decodeBytes_ind (sid := sid) (bs := payload) (c := false) (P := fun u => u.fault = none)
    (fun _ _ _ _ hu hb => (decodeByte_ok_fault hb).trans hu)
    (fun _ _ _ hu hb => (decodeByte_violation_fault hb).trans hu) ((State.associate_fault s sid).trans hf)
  obtain ⟨rec, -, ⟨-, hclose⟩ | ⟨-, -, -, hclose⟩ | ⟨-, -, ⟨u, hu, hclose⟩ | ⟨u, c, hu, hend⟩⟩⟩ := byteRange_next h
  · exact closeSession_endsPlain hclose hf
  · exact closeSession_endsPlain hclose hf
  · exact closeSession_endsPlain hclose (hviolation u hu)
  · exact endOfRange_endsPlain hend (hok u c hu)

theorem receiveRange_endsPlain {sid : StreamId} {fin : Bool} {payload : List Byte} {s t : State}
    (h : receiveRange sid fin payload s = .next t) (hf : s.fault = none) : EndsWith Reply.Plain t := by
  rcases receiveRange_next h with ⟨-, rfl⟩ | ⟨total, -, ⟨-, hempty⟩ | ⟨-, hbytes⟩⟩
  · exact endsWith_fault _ s _
  · exact emptyRange_endsPlain hempty hf
  · exact byteRange_endsPlain hbytes hf

/-! The commands. All but REQUEST_SEND and REQUEST_DATAGRAM give plain replies. -/

theorem execAccept_endsPlain {sid : StreamId} {bidi isLocal : Bool} {seed : Byte} {s t : State}
    (h : execAccept sid bidi isLocal seed s = .next t) : EndsWith Reply.Plain t :=
  checked_endsWith (fun _ hr => hr) h fun hf hbody => dispatchTurn_endsPlain hbody hf

theorem execConnect_endsPlain {sid : StreamId} {bidi isLocal : Bool} {s t : State}
    (h : execConnect sid bidi isLocal s = .next t) : EndsWith Reply.Plain t :=
  checked_endsWith (fun _ hr => hr) h fun hf hbody => answer_endsPlain hbody hf

theorem execDeregister_endsPlain {s t : State} (h : execDeregister s = .next t) : EndsWith Reply.Plain t := by
  refine checked_endsWith (fun _ hr => hr) h fun hf hbody => ?_
  obtain ⟨role, -, hrole⟩ := needed_next hbody
  cases role with
  | responder => exact answer_endsPlain hrole hf
  | initiator => exact answer_endsPlain hrole hf

theorem execDeliverBytes_endsPlain {sid : StreamId} {fin bidi isLocal : Bool} {payload : List Byte} {s t : State}
    (h : execDeliverBytes sid fin bidi isLocal payload s = .next t) : EndsWith Reply.Plain t := by
  refine checked_endsWith (fun _ hr => hr) h fun hf hbody => ?_
  split at hbody
  · exact answer_endsPlain hbody hf
  · exact receiveRange_endsPlain hbody ((State.knowStream_fault s sid bidi).trans hf)

theorem execDeliverDatagram_endsPlain {payload : List Byte} {s t : State}
    (h : execDeliverDatagram payload s = .next t) : EndsWith Reply.Plain t := by
  refine checked_endsWith (fun _ hr => hr) h fun hf hbody => ?_
  split at hbody
  · exact answer_endsPlain hbody hf
  · rcases countReceived_next hbody with ⟨u, rfl, -⟩ | ⟨received, bytes, -, -, hanswer⟩
    · exact endsWith_fault _ u _
    · exact answer_endsPlain hanswer hf

theorem execNotifyReset_endsPlain {sid : StreamId} {s t : State} (h : execNotifyReset sid s = .next t) :
    EndsWith Reply.Plain t := by
  refine checked_endsWith (fun _ hr => hr) h fun hf hbody => ?_
  obtain ⟨c, rec, -, -, hclosed⟩ := closeThen_next hbody
  obtain ⟨role, -, hanswer⟩ := needed_next hclosed
  refine answer_endsPlain hanswer ?_
  cases role <;> exact (State.closeOn_fault ..).trans hf

theorem execIdleTimeout_endsPlain {s t : State} (h : execIdleTimeout s = .next t) : EndsWith Reply.Plain t :=
  checked_endsWith (fun _ hr => hr) h fun hf hbody => closeSession_endsPlain hbody hf

/-- REQUEST_SEND gives a reply, with the frame bytes written and fin at the end of the frame (R153, R156). -/
theorem execRequestSend_endsWith {sid : StreamId} {maxLen : BitVec 16} {s t : State}
    (h : execRequestSend sid maxLen s = .next t) : EndsWith (fun _ => True) t := by
  refine checked_endsWith (fun _ _ => trivial) h fun hf hbody => ?_
  split at hbody
  · exact (answer_endsPlain hbody hf).mono fun _ _ => trivial
  · obtain ⟨b, -, hwrite⟩ := needed_next hbody
    obtain ⟨u, rfl, ⟨-, rec, -, rfl⟩ | ⟨-, rfl⟩⟩ := writeFrame_next hwrite
    · exact endsWith_replied hf trivial
    · exact endsWith_replied hf trivial

/-- REQUEST_DATAGRAM gives a reply with fin 0, the datagram or nothing in it (R242). -/
theorem execRequestDatagram_endsWith {maxLen pad : BitVec 16} {s t : State}
    (h : execRequestDatagram maxLen pad s = .next t) : EndsWith (fun r => r.fin = false) t := by
  refine checked_endsWith (fun _ hr => hr.2) h fun hf hbody => ?_
  split at hbody
  · exact (answer_endsPlain hbody hf).mono fun _ hr => hr.2
  · obtain ⟨value, -, hcount⟩ := needed_next hbody
    rcases countSent_next hcount with ⟨u, rfl, -⟩ | ⟨sent, bytes, -, -, hsent⟩
    · exact endsWith_fault _ u _
    · cases hsent
      exact endsWith_replied hf rfl

/-- Every command that answers next ends with a reply its opcode allows, or with a recorded model fault and none. -/
theorem exec_endsWith {i : Instr} {s t : State} (h : exec i s = .next t) : EndsWith (Reply.Allowed i.opcode) t := by
  have hplain : EndsWith Reply.Plain t → EndsWith (Reply.Allowed i.opcode) t :=
    EndsWith.mono fun r hr => hr.allowed i.opcode
  cases i with
  | accept sid bidi isLocal seed => exact hplain (execAccept_endsPlain h)
  | connect sid bidi isLocal => exact hplain (execConnect_endsPlain h)
  | deregister => exact hplain (execDeregister_endsPlain h)
  | deliverBytes sid fin bidi isLocal payload => exact hplain (execDeliverBytes_endsPlain h)
  | requestSend sid maxLen =>
    exact (execRequestSend_endsWith h).mono fun r _ => by simp [Reply.Allowed, Instr.opcode]
  | deliverDatagram payload => exact hplain (execDeliverDatagram_endsPlain h)
  | requestDatagram maxLen pad =>
    exact (execRequestDatagram_endsWith h).mono fun r hr => by simp [Reply.Allowed, Instr.opcode, hr]
  | notifyReset sid => exact hplain (execNotifyReset_endsPlain h)
  | idleTimeout => exact hplain (execIdleTimeout_endsPlain h)

/-- Settles O12: a halted block has no next state, and the two ways a command ends are the two clauses on replies. -/
theorem everyCommandReplies : Obligations.EveryCommandReplies := by
  intro i s t h
  refine ⟨exec_next_not_halted h, ?_⟩
  cases exec_endsWith h with
  | faulted hfault hreply => exact ⟨fun _ => hreply, fun hnone => absurd hnone hfault⟩
  | replied r hfault hreply hr => exact ⟨fun hsome => absurd hfault hsome, fun _ => ⟨r, hreply, hr⟩⟩

end Sys2Proof.Machine
end

section
/-! PROOFS. The family of spec/30_encoding.md: the decoder and the encoder undo each other (R80 to R86), the decoder
accepts the words of the opcode table, and the minimal encoding of an integer (R100 to R102). -/

namespace Sys2Proof

/-! What the decoder accepts: a word whose fields are legal for its opcode, with the payload they announce. -/

/-- Every opcode has one value, so an OPC field names the opcode exactly where it holds that value (R84). -/
theorem opcodeOf_eq_some_iff {opc : BitVec 8} {op : Opcode} : opcodeOf opc = some op ↔ opc = op.value := by
  refine ⟨fun h => (value_of_opcodeOf h).symm, ?_⟩
  rintro rfl
  exact opcodeOf_value op

theorem decode_ok_iff {w : Descriptor} {payload : List Byte} {i : Instr} :
    decode w payload = .ok i ↔
      ∃ op, (fieldsOf w).opc = op.value ∧ FieldsLegal op (fieldsOf w) ∧
        payload.length = payloadLength op (fieldsOf w) ∧ i = buildInstr op (fieldsOf w) payload := by
  constructor
  case mp =>
    intro h
    by_cases hlegal : ∃ op, opcodeOf (fieldsOf w).opc = some op ∧ FieldsLegal op (fieldsOf w)
    · obtain ⟨op, hop, hfields⟩ := hlegal
      obtain ⟨hres, hunused, hsid, hseed⟩ := hfields
      refine ⟨op, opcodeOf_eq_some_iff.1 hop, ⟨hres, hunused, hsid, hseed⟩, ?_⟩
      simp only [decode, hop, hres, hunused, hsid, hseed, Bool.not_true, Bool.false_eq_true, if_false] at h
      split at h
      · cases h
      · rename_i hlen
        exact ⟨by simpa using hlen, (Except.ok.inj h).symm⟩
    · obtain ⟨why, hwhy, -⟩ := decode_error_of_not_legal (fun op hop hf => hlegal ⟨op, hop, hf⟩) payload
      rw [hwhy] at h
      cases h
  case mpr =>
    rintro ⟨op, hop, ⟨hres, hunused, hsid, hseed⟩, hlen, rfl⟩
    simp [decode, opcodeOf_eq_some_iff.2 hop, hres, hunused, hsid, hseed, hlen]

/-! Single fields: a flag, a stream id, a seed and a length are read back from what is written for them. -/

@[simp] theorem bitFlag_flagBit (b : Bool) : bitFlag (flagBit b) = b := by cases b <;> rfl

@[simp] theorem flagBit_bitFlag (b : BitVec 1) : flagBit (bitFlag b) = b := by
  revert b
  decide

/-- A 64-bit field below 2^62 is the value of the stream id it is read as (R82). -/
theorem streamIdBits_setWidth {x : BitVec 64} (h : x.toNat < 2 ^ 62) : streamIdBits (some (x.setWidth 62)) = x := by
  apply BitVec.eq_of_toNat_eq
  rw [streamIdBits_some, BitVec.toNat_setWidth, BitVec.toNat_setWidth, Nat.mod_eq_of_lt h, Nat.mod_eq_of_lt x.isLt]

theorem toNat_streamIdBits_lt (sid : StreamId) : (streamIdBits (some sid)).toNat < 2 ^ 62 := by
  have hsid := sid.isLt
  rw [streamIdBits_some, BitVec.toNat_setWidth, Nat.mod_eq_of_lt (by omega)]
  exact hsid

/-- A 16-bit field below 256 is the value of the byte it is read as (R81). -/
theorem setWidth_setWidth_of_lt {x : BitVec 16} (h : x.toNat < 256) : (x.setWidth 8).setWidth 16 = x := by
  apply BitVec.eq_of_toNat_eq
  rw [BitVec.toNat_setWidth, BitVec.toNat_setWidth, Nat.mod_eq_of_lt (a := x.toNat) h, Nat.mod_eq_of_lt x.isLt]

/-! Decoding what was encoded. -/

/-- Every command's fields hold its opcode's value, and zeros in the reserved and the unused fields. -/
theorem Instr.fields_outside (i : Instr) : Laws.EncodedFields.Statement i := by
  cases i with
  | accept => exact Laws.EncodedFields.accept _ _ _ _
  | connect => exact Laws.EncodedFields.connect _ _ _
  | deregister => exact Laws.EncodedFields.deregister
  | deliverBytes => exact Laws.EncodedFields.deliverBytes _ _ _ _ _
  | requestSend => exact Laws.EncodedFields.requestSend _ _
  | deliverDatagram => exact Laws.EncodedFields.deliverDatagram _
  | requestDatagram => exact Laws.EncodedFields.requestDatagram _ _
  | notifyReset => exact Laws.EncodedFields.notifyReset _
  | idleTimeout => exact Laws.EncodedFields.idleTimeout

/-- The SID field is zero, or the 64-bit value of a stream id. -/
theorem Instr.fields_sid_lt (i : Instr) : i.fields.sid.toNat < 2 ^ 62 := by
  cases i with
  | accept sid | connect sid | deliverBytes sid | requestSend sid | notifyReset sid => exact toNat_streamIdBits_lt sid
  | deregister | deliverDatagram | requestDatagram | idleTimeout => exact Nat.two_pow_pos 62

theorem Instr.fields_seedFits {i : Instr} (h : i.WellFormed) : seedFits i.opcode i.fields = true := by
  cases i with
  | accept sid bidi isLocal seed =>
    have hseed := seed.isLt
    have hback : (seed.setWidth 16).setWidth 8 = seed := BitVec.setWidth_setWidth_of_le seed (by decide)
    have harg : (seed.setWidth 16).toNat < 256 := by
      rw [BitVec.toNat_setWidth, Nat.mod_eq_of_lt (by omega)]
      exact hseed
    have hlegal : seedLegal seed = true := h
    rw [seedFits, Instr.opcode, Instr.fields, hback, hlegal, decide_eq_true harg]
    rfl
  | connect | deregister | deliverBytes | requestSend | deliverDatagram | requestDatagram | notifyReset | idleTimeout =>
    rfl

theorem Instr.fields_legal {i : Instr} (h : i.WellFormed) : FieldsLegal i.opcode i.fields := by
  obtain ⟨-, hres, hunused⟩ := i.fields_outside
  rw [encode, fieldsOf_wordOf] at hres hunused
  exact ⟨hres, hunused, (sidFits_iff _ _).2 fun _ => i.fields_sid_lt, fields_seedFits h⟩

/-- A well-formed command's payload is as long as its LEN field says (R83). -/
theorem Instr.length_payload {i : Instr} (h : i.WellFormed) :
    i.payload.length = payloadLength i.opcode i.fields := by
  cases i with
  | deliverBytes sid fin bidi isLocal payload => exact (Nat.mod_eq_of_lt (of_decide_eq_true h)).symm
  | deliverDatagram payload => exact (Nat.mod_eq_of_lt (of_decide_eq_true h)).symm
  | accept | connect | deregister | requestSend | requestDatagram | notifyReset | idleTimeout => rfl

/-- The command read from the fields and the payload of a command is that command (R81). -/
theorem buildInstr_fields (i : Instr) : buildInstr i.opcode i.fields i.payload = i := by
  cases i with
  | accept sid bidi isLocal seed =>
    have hseed : (seed.setWidth 16).setWidth 8 = seed := BitVec.setWidth_setWidth_of_le seed (by decide)
    simp only [Instr.fields, Instr.opcode, buildInstr, setWidth_streamIdBits, bitFlag_flagBit, hseed]
  | connect | deliverBytes | requestSend | notifyReset =>
    simp only [Instr.fields, Instr.opcode, Instr.payload, buildInstr, setWidth_streamIdBits, bitFlag_flagBit]
  | deregister | deliverDatagram | requestDatagram | idleTimeout => rfl

/-- Settles O1: the encoded fields are legal for the command's opcode, and the command is read back from them. -/
theorem decodeOfEncode : Obligations.DecodeOfEncode := by
  intro i h
  have hopc := i.fields_outside.1
  have hfields : fieldsOf (encode i).1 = i.fields := fieldsOf_wordOf _
  rw [hfields] at hopc
  refine decode_ok_iff.2 ⟨i.opcode, ?_⟩
  rw [hfields]
  exact ⟨hopc, Instr.fields_legal h, Instr.length_payload h, (buildInstr_fields i).symm⟩

/-! Encoding what was decoded. -/

theorem buildInstr_opcode (op : Opcode) (f : Fields) (payload : List Byte) :
    (buildInstr op f payload).opcode = op := by cases op <;> rfl

theorem buildInstr_payload {op : Opcode} {f : Fields} {payload : List Byte}
    (h : payload.length = payloadLength op f) : (buildInstr op f payload).payload = payload := by
  cases op with
  | deliverBytes | deliverDatagram => rfl
  | accept | connect | deregister | requestSend | requestDatagram | notifyReset | idleTimeout =>
    exact (List.length_eq_zero_iff.1 h).symm

theorem buildInstr_wellFormed {op : Opcode} {f : Fields} {payload : List Byte} (hf : FieldsLegal op f)
    (h : payload.length = payloadLength op f) : (buildInstr op f payload).WellFormed := by
  cases op with
  | accept =>
    obtain ⟨-, hmin, hmax⟩ := (seedFits_accept f).1 hf.seed
    exact Bool.and_eq_true_iff.2 ⟨decide_eq_true hmin, decide_eq_true hmax⟩
  | deliverBytes | deliverDatagram => exact decide_eq_true (h.trans_lt f.len.isLt)
  | connect | deregister | requestSend | requestDatagram | notifyReset | idleTimeout => rfl

/-- The fields of the command read from legal fields are those fields (R81): a field the opcode uses is written back, and
one it does not use was zero. -/
theorem fields_buildInstr {op : Opcode} {f : Fields} {payload : List Byte} (hopc : f.opc = op.value)
    (hf : FieldsLegal op f) (h : payload.length = payloadLength op f) : (buildInstr op f payload).fields = f := by
  obtain ⟨hres, hunused, hsid, hseed⟩ := hf
  obtain ⟨hrsv0, hrsv1⟩ := (reservedZero_iff f).1 hres
  obtain ⟨hfin, hattrs, hlen, hsid0, harg⟩ := (unusedZero_iff _ f).1 hunused
  have hsidBits (hu : (usageOf op).sid = true) := streamIdBits_setWidth ((sidFits_iff _ f).1 hsid hu)
  obtain ⟨opc, fin, bidi, isLocal, rsv0, len, sid, arg, rsv1⟩ := f
  cases op with
  | accept =>
    have hargBits := setWidth_setWidth_of_lt ((seedFits_accept _).1 hseed).1
    simp_all [buildInstr, Instr.fields, emptyFields, Instr.opcode, usageOf]
  | deliverBytes | deliverDatagram =>
    have hlenBits : BitVec.ofNat 16 payload.length = len := by
      rw [h, payloadLength, BitVec.ofNat_toNat, BitVec.setWidth_eq]
    simp_all [buildInstr, Instr.fields, emptyFields, Instr.opcode, usageOf]
  | connect | deregister | requestSend | requestDatagram | notifyReset | idleTimeout =>
    simp_all [buildInstr, Instr.fields, emptyFields, Instr.opcode, usageOf]

/-- The SID field of a command that names a stream is that stream's 64-bit value. -/
theorem Instr.fields_sid_of_named {i : Instr} {sid : StreamId} (h : sid ∈ Machine.namedStream i) :
    i.fields.sid = streamIdBits (some sid) := by
  cases i with
  | accept a | connect a | deliverBytes a | requestSend a | notifyReset a =>
    obtain rfl : a = sid := Option.some.inj h
    rfl
  | deregister | deliverDatagram | requestDatagram | idleTimeout => cases h

/-- Settles O2: the fields a command is read from are legal, so they are the fields it is written with. -/
theorem encodeOfDecode : Obligations.EncodeOfDecode := by
  intro w payload i h
  obtain ⟨op, hopc, hf, hlen, rfl⟩ := decode_ok_iff.1 h
  have hfields := fields_buildInstr hopc hf hlen
  have hsid : w.extractLsb' 32 64 = (buildInstr op (fieldsOf w) payload).fields.sid := by rw [hfields]; rfl
  refine ⟨buildInstr_wellFormed hf hlen, ?word, fun sid hnamed => ?named, ?notNone⟩
  case word => rw [encode, hfields, buildInstr_payload hlen, wordOf_fieldsOf]
  case named => rw [hsid, Instr.fields_sid_of_named hnamed]
  case notNone =>
    intro hnone
    have hlt := (buildInstr op (fieldsOf w) payload).fields_sid_lt
    rw [← hsid, hnone] at hlt
    exact absurd hlt (by decide)

/-- Settles O4: the nine words are concrete, and the decoder is evaluated on each. -/
theorem specWordsDecode : Obligations.SpecWordsDecode := by
  refine ⟨?_, ?_, ?_, ?_, ?_, ?_, ?_, ?_, ?_⟩ <;> decide

/-! The rows of the opcode table, field by field. -/

/-- The bitwise conjunction of two descriptors' fields. -/
def Fields.and (f g : Fields) : Fields where
  opc := f.opc &&& g.opc
  fin := f.fin &&& g.fin
  bidi := f.bidi &&& g.bidi
  isLocal := f.isLocal &&& g.isLocal
  rsv0 := f.rsv0 &&& g.rsv0
  len := f.len &&& g.len
  sid := f.sid &&& g.sid
  arg := f.arg &&& g.arg
  rsv1 := f.rsv1 &&& g.rsv1

theorem fieldsOf_and (v w : Descriptor) : fieldsOf (v &&& w) = (fieldsOf v).and (fieldsOf w) := by
  simp only [fieldsOf, Fields.and, BitVec.extractLsb'_and]

/-- The mask of a field: every bit where the opcode does not use the field, and `used` where it does. -/
def fieldMask {n : Nat} (u : Bool) (used : BitVec n) : BitVec n := if u then used else BitVec.allOnes n

/-- The fields of an opcode's mask: R81's table, with the bits that R82 keeps zero in a SID that is used, and the bits
that R81 keeps zero in ACCEPT's ARG. -/
def maskFields (op : Opcode) : Fields where
  opc := BitVec.allOnes 8
  fin := fieldMask (usageOf op).fin 0
  bidi := fieldMask (usageOf op).attrs 0
  isLocal := fieldMask (usageOf op).attrs 0
  rsv0 := BitVec.allOnes 5
  len := fieldMask (usageOf op).len 0
  sid := fieldMask (usageOf op).sid (BitVec.allOnes 64 <<< 62)
  arg := fieldMask (usageOf op).arg (if op = .accept then BitVec.allOnes 16 <<< 8 else 0)
  rsv1 := BitVec.allOnes 16

/-- The match and mask columns of the table are the two sets of fields. -/
theorem opcodeTable_fields :
    ∀ r ∈ opcodeTable, fieldsOf r.matchBits = emptyFields r.op ∧ fieldsOf r.mask = maskFields r.op := by decide

/-- Every opcode has a row. -/
theorem exists_row (op : Opcode) : ∃ r ∈ opcodeTable, r.op = op := by cases op <;> decide

theorem fieldsOf_inj {v w : Descriptor} : fieldsOf v = fieldsOf w ↔ v = w := by
  refine ⟨fun h => ?_, congrArg fieldsOf⟩
  rw [← wordOf_fieldsOf v, h, wordOf_fieldsOf]

theorem covers_iff {r : TableRow} (hr : r ∈ opcodeTable) (w : Descriptor) :
    r.covers w = true ↔ (fieldsOf w).and (maskFields r.op) = emptyFields r.op := by
  obtain ⟨hmatch, hmask⟩ := opcodeTable_fields r hr
  rw [TableRow.covers, beq_iff_eq, ← fieldsOf_inj, fieldsOf_and, hmask, hmatch]

theorem and_fieldMask_eq_zero_iff {n : Nat} (u : Bool) (x used : BitVec n) :
    x &&& fieldMask u used = 0 ↔ (u = true → x &&& used = 0) ∧ (¬ u = true → x = 0) := by
  cases u <;> simp [fieldMask]

/-- The bits from `k` on are zero exactly where the value is below `2 ^ k`. -/
theorem and_highMask_eq_zero_iff {n : Nat} (x : BitVec n) (k : Nat) :
    x &&& BitVec.allOnes n <<< k = 0 ↔ x.toNat < 2 ^ k := by
  constructor
  case mp =>
    intro h
    refine Nat.lt_pow_two_of_testBit _ fun i hki => ?_
    rcases Nat.lt_or_ge i n with hi | hi
    · have hbit : (x &&& BitVec.allOnes n <<< k).getLsbD i = false := by rw [h]; exact BitVec.getLsbD_zero
      rwa [BitVec.getLsbD_and, BitVec.getLsbD_shiftLeft, BitVec.getLsbD_allOnes, decide_eq_true hi,
        decide_eq_false (Nat.not_lt.2 hki), decide_eq_true (show i - k < n by omega), Bool.not_false, Bool.and_true,
        Bool.and_true, Bool.and_true] at hbit
    · exact BitVec.getLsbD_of_ge x i hi
  case mpr =>
    intro h
    refine BitVec.eq_of_getLsbD_eq fun i hi => ?_
    rcases Nat.lt_or_ge i k with hik | hki
    · simp [hik]
    · have hbit : x.getLsbD i = false :=
        Nat.testBit_lt_two_pow (x := x.toNat) (h.trans_le (Nat.pow_le_pow_right (by decide) hki))
      rw [BitVec.getLsbD_and, hbit, Bool.false_and]; exact BitVec.getLsbD_zero.symm

/-- Under a mask that keeps the high bits of the used fields, a word is its opcode's match word exactly where its fields
are legal, ACCEPT's seed range left aside. -/
theorem and_maskFields_iff (op : Opcode) (f : Fields) :
    f.and (maskFields op) = emptyFields op ↔
      f.opc = op.value ∧ reservedZero f = true ∧ unusedZero (usageOf op) f = true ∧ sidFits (usageOf op) f = true ∧
        (op = .accept → f.arg.toNat < 256) := by
  have hsid := and_highMask_eq_zero_iff f.sid 62
  have harg := and_highMask_eq_zero_iff f.arg 8
  have hargMask : ((usageOf op).arg = true → f.arg &&& (if op = .accept then BitVec.allOnes 16 <<< 8 else 0) = 0) ↔
      (op = .accept → f.arg.toNat < 256) := by
    by_cases hop : op = .accept
    · subst hop
      exact ⟨fun h _ => harg.1 (h rfl), fun h _ => harg.2 (h rfl)⟩
    · rw [if_neg hop]
      exact ⟨fun _ h => absurd h hop, fun _ _ => BitVec.and_zero⟩
  have hzero {n : Nat} (x : BitVec n) : x &&& 0 = 0 ↔ True := iff_true_intro BitVec.and_zero
  rw [reservedZero_iff, unusedZero_iff, sidFits_iff]
  simp only [Fields.and, maskFields, emptyFields, Fields.mk.injEq, BitVec.and_allOnes, and_fieldMask_eq_zero_iff,
    hargMask, hsid, hzero, implies_true, true_and, imp_and]
  constructor
  · rintro ⟨hopc, hfin, hbidi, hlocal, hrsv0, hlen, ⟨hsid62, hsid0⟩, ⟨hhigh, harg0⟩, hrsv1⟩
    exact ⟨hopc, ⟨hrsv0, hrsv1⟩, ⟨hfin, ⟨hbidi, hlocal⟩, hlen, hsid0, harg0⟩, hsid62, hhigh⟩
  · rintro ⟨hopc, ⟨hrsv0, hrsv1⟩, ⟨hfin, ⟨hbidi, hlocal⟩, hlen, hsid0, harg0⟩, hsid62, hhigh⟩
    exact ⟨hopc, hfin, hbidi, hlocal, hrsv0, hlen, ⟨hsid62, hsid0⟩, ⟨hhigh, harg0⟩, hrsv1⟩

theorem announcedPayload_eq {w : Descriptor} {op : Opcode} (h : (fieldsOf w).opc = op.value) :
    announcedPayload w = payloadLength op (fieldsOf w) := by
  simp only [announcedPayload, opcodeOf_eq_some_iff.2 h]

/-- Settles O3: row by row, the mask asks for the decoder's checks but the seed range, which is asked for beside it. -/
theorem decodeAgreesWithOpcodeTable : Obligations.DecodeAgreesWithOpcodeTable := by
  intro w payload op
  have hrow : (∃ r ∈ opcodeTable, r.op = op ∧ r.covers w = true) ↔
      (fieldsOf w).and (maskFields op) = emptyFields op := by
    constructor
    case mp =>
      rintro ⟨r, hr, rfl, hcovers⟩
      exact (covers_iff hr w).1 hcovers
    case mpr =>
      intro h
      obtain ⟨r, hr, rfl⟩ := exists_row op
      exact ⟨r, hr, rfl, (covers_iff hr w).2 h⟩
  rw [hrow, and_maskFields_iff]
  constructor
  case mp =>
    rintro ⟨i, h, rfl⟩
    obtain ⟨op, hopc, hf, hlen, rfl⟩ := decode_ok_iff.1 h
    rw [buildInstr_opcode]
    refine ⟨⟨hopc, hf.reserved, hf.unused, hf.sid, ?high⟩, ?seed, ?length⟩
    case high =>
      rintro rfl
      exact ((seedFits_accept _).1 hf.seed).1
    case seed =>
      rintro rfl
      rw [← setWidth_arg]
      exact ((seedFits_accept _).1 hf.seed).2
    case length => rw [announcedPayload_eq hopc, hlen]
  case mpr =>
    rintro ⟨⟨hopc, hres, hunused, hsid, hhigh⟩, hseed, hlen⟩
    rw [announcedPayload_eq hopc] at hlen
    have hf : FieldsLegal op (fieldsOf w) := by
      refine ⟨hres, hunused, hsid, ?_⟩
      by_cases hop : op = .accept
      · subst hop
        rw [seedFits_accept, setWidth_arg]
        exact ⟨hhigh rfl, hseed rfl⟩
      · simp [seedFits, hop]
    exact ⟨_, decode_ok_iff.2 ⟨op, hopc, hf, hlen, rfl⟩, buildInstr_opcode _ _ _⟩

end Sys2Proof

namespace Sys2Proof.Machine

/-! The minimal encoding of an integer (R100 to R102). -/

/-- Bytes read most significant first give the low bytes they were written from. -/
theorem foldl_bigEndian (n v acc : Nat) :
    (bigEndian n v).foldl (fun acc b => acc * 256 + b.toNat) acc = acc * 256 ^ n + v % 256 ^ n := by
  induction n generalizing v with
  | zero => simp [bigEndian, Nat.mod_one]
  | succ n ih =>
    have hlow : v % 256 ^ (n + 1) = v % 256 + 256 * (v / 256 % 256 ^ n) := by
      rw [Nat.pow_succ, Nat.mul_comm, Nat.mod_mul]
    rw [bigEndian, List.foldl_append, ih, hlow, Nat.pow_succ]
    simp only [List.foldl_cons, List.foldl_nil, BitVec.toNat_ofNat]
    ring

/-- The first of `n + 1` bytes is the most significant one. -/
theorem bigEndian_succ_eq_cons (n v : Nat) : bigEndian (n + 1) v = BitVec.ofNat 8 (v / 256 ^ n) :: bigEndian n v := by
  induction n generalizing v with
  | zero => simp [bigEndian]
  | succ n ih =>
        calc bigEndian (n + 2) v
        = bigEndian (n + 1) (v / 256) ++ [BitVec.ofNat 8 v] := rfl
      _ = BitVec.ofNat 8 (v / 256 ^ (n + 1)) :: (bigEndian n (v / 256) ++ [BitVec.ofNat 8 v]) := by
          rw [ih, Nat.div_div_eq_div_mul, ← Nat.pow_succ', List.cons_append]
      _ = BitVec.ofNat 8 (v / 256 ^ (n + 1)) :: bigEndian (n + 1) v := rfl

/-- An encoding of `n + 1` bytes with a tag in the two top bits: the value is read back, and the tag announces the
length (R100). -/
theorem bigEndian_tagged {n tag v : Nat} (hv : v < 64 * 256 ^ n) (ht : tag < 4) :
    varintValue (bigEndian (n + 1) (tag * (64 * 256 ^ n) + v)) = v ∧
      (bigEndian (n + 1) (tag * (64 * 256 ^ n) + v)).head?.map vlen = some (2 ^ tag) := by
  have hpos : 0 < 256 ^ n := Nat.pow_pos (by decide)
  have hhead : (tag * (64 * 256 ^ n) + v) / 256 ^ n = tag * 64 + v / 256 ^ n := by
    rw [← Nat.mul_assoc, Nat.add_comm, Nat.add_mul_div_right _ _ hpos, Nat.add_comm]
  have hsix : v / 256 ^ n < 64 := Nat.div_lt_of_lt_mul (by rwa [Nat.mul_comm])
  have hrest : (tag * (64 * 256 ^ n) + v) % 256 ^ n = v % 256 ^ n := by
    rw [← Nat.mul_assoc, Nat.mul_add_mod_self_right]
  rw [bigEndian_succ_eq_cons, hhead, varintValue, foldl_bigEndian, hrest, List.head?_cons, Option.map_some, vlen,
    BitVec.extractLsb'_toNat, BitVec.extractLsb'_toNat, BitVec.toNat_ofNat, Nat.shiftRight_eq_div_pow,
    Nat.shiftRight_eq_div_pow, Nat.one_shiftLeft]
  have hlow : (tag * 64 + v / 256 ^ n) % 2 ^ 8 / 2 ^ 0 % 2 ^ 6 = v / 256 ^ n := by
    generalize v / 256 ^ n = q at hsix ⊢
    omega
  have htag : (tag * 64 + v / 256 ^ n) % 2 ^ 8 / 2 ^ 6 % 2 ^ 2 = tag := by
    generalize v / 256 ^ n = q at hsix ⊢
    omega
  rw [hlow, htag]
  exact ⟨Nat.div_add_mod' v (256 ^ n), rfl⟩

/-- The minimal encoding is the tagged one of 1, 2, 4 or 8 bytes, by the thresholds of R102. -/
theorem varint_eq_tagged {v : Nat} (hv : v < 2 ^ 62) :
    ∃ n tag, varint v = bigEndian (n + 1) (tag * (64 * 256 ^ n) + v) ∧ v < 64 * 256 ^ n ∧ tag < 4 ∧ n + 1 = 2 ^ tag ∧
      n + 1 = if v ≤ 0x3F then 1 else if v ≤ 0x3FFF then 2 else if v ≤ 2 ^ 30 - 1 then 4 else 8 := by
  rw [varint, Config.pad1bMax, Config.pad2bMax]
  by_cases h1 : v ≤ 0x3F
  · exact ⟨0, 0, by simp [h1], by omega, by decide, rfl, by simp [h1]⟩
  · by_cases h2 : v ≤ 0x3FFF
    · exact ⟨1, 1, by simp [h1, h2], by omega, by decide, rfl, by simp [h1, h2]⟩
    · by_cases h4 : v ≤ 2 ^ 30 - 1
      · exact ⟨3, 2, by rw [if_neg h1, if_neg h2, if_pos h4]; rfl, by omega, by decide, rfl, by
          rw [if_neg h1, if_neg h2, if_pos h4]⟩
      · exact ⟨7, 3, by rw [if_neg h1, if_neg h2, if_neg h4]; rfl, by omega, by decide, rfl, by
          rw [if_neg h1, if_neg h2, if_neg h4]⟩

/-- Settles O6: whichever of the four lengths the value takes, its tag announces it and its bytes read back. -/
theorem varintRoundTrip : Obligations.VarintRoundTrip := by
  intro v hv
  obtain ⟨n, tag, heq, hlt, htag, hlen, hrow⟩ := varint_eq_tagged hv
  obtain ⟨hvalue, hhead⟩ := bigEndian_tagged hlt htag
  rw [heq, length_bigEndian]
  exact ⟨hvalue, by rw [hhead, hlen], hrow⟩

end Sys2Proof.Machine
end

section
/-! PROOFS. The family of spec/41_encoder.md: the offer that falls short of the frame's end (R153, R154), and the bytes of
any sequence of offers (R159). -/

namespace Sys2Proof.Machine

/-! The offer that falls short of the frame's end (R154). -/

/-- A 14-bit padding length is encoded in one or two bytes (R102). -/
theorem length_varint_padLen_le (p : PadLen) : (varint p.toNat).length ≤ 2 := by
  have hp : p.toNat ≤ Config.pad2bMax := Nat.le_of_lt_succ p.isLt
  rcases Nat.lt_or_ge Config.pad1bMax p.toNat with hlong | hshort
  · exact (length_varint_two hlong hp).le
  · exact (length_varint_one hshort).trans_le (by decide)

/-- The offer that decides the padding has room for the encoded length (R152). -/
theorem length_varint_choosePadding_le (b : Byte) {m : Nat} (hm : 1 ≤ m) :
    (varint (choosePadding b m).toNat).length ≤ m := by
  by_cases hb : b = 0
  · subst hb
    rw [choosePadding_zero]
    exact hm
  · rcases hm.eq_or_lt with rfl | hm
    · rw [choosePadding_one hb]
      decide
    · exact (length_varint_padLen_le _).trans hm

/-- No call ends inside the encoded length (R154): it is written already, or an offer of `m` bytes writes all of it. -/
def Encoder.WholePrefix (e : Encoder) (p : PadLen) (m : Nat) : Prop :=
  e.prefixSent = (varint p.toNat).length ∨ e.written = 0 ∧ (varint p.toNat).length ≤ m

/-- Under R158 an offer never ends inside the encoded length. -/
theorem EncoderCoherent.wholePrefix {s : State} (h : EncoderCoherent s) (b : Byte) {m : Nat} (hm : 1 ≤ m) :
    s.enc.WholePrefix (s.enc.paddingRequired.getD (choosePadding b m)) m := by
  obtain ⟨-, hundecided, hdecided⟩ := h
  cases hp : s.enc.paddingRequired with
  | none =>
    obtain ⟨hprefix, hpadding⟩ := hundecided hp
    exact .inr ⟨by simp [Encoder.written, hprefix, hpadding], length_varint_choosePadding_le b hm⟩
  | some p => exact .inl (hdecided p hp).2

/-- The encoder registers once the encoded length of a frame with padding length `p` and `n` bytes in all are written. -/
def Encoder.afterBytes (p : PadLen) (n : Nat) : Encoder where
  paddingRequired := some p
  prefixSent := (varint p.toNat).length
  paddingSent := BitVec.ofNat 14 (n - (varint p.toNat).length)

/-- An offer of `m` bytes that stays short of the baton: the encoded length whole, then padding. -/
theorem Encoder.Within.advance_partial {e : Encoder} {p : PadLen} {m : Nat} (h : e.Within p) (hw : e.WholePrefix p m)
    (hlt : e.written + m < (varint p.toNat).length + p.toNat + 1) :
    ({ e with paddingRequired := some p } : Encoder).advance p m = .afterBytes p (e.written + m) ∧
      (varint p.toNat).length ≤ e.written + m := by
  obtain ⟨hprefix, hpadding⟩ := h
  have hsent : e.prefixSent + min m ((varint p.toNat).length - e.prefixSent) = (varint p.toNat).length ∧
      e.paddingSent.toNat +
          min (m - min m ((varint p.toNat).length - e.prefixSent)) (p.toNat - e.paddingSent.toNat) =
        e.written + m - (varint p.toNat).length ∧ (varint p.toNat).length ≤ e.written + m := by
    rw [Encoder.WholePrefix] at hw
    rw [Encoder.written] at hw hlt ⊢
    omega
  obtain ⟨hprefixSent, hpaddingSent, hle⟩ := hsent
  simp only [Encoder.advance, Encoder.afterBytes, hprefixSent, hpaddingSent]
  exact ⟨trivial, hle⟩

/-- The registers after a partial write are within the frame, and count exactly the bytes written. -/
theorem Encoder.afterBytes_written {p : PadLen} {n : Nat} (hle : (varint p.toNat).length ≤ n)
    (hlt : n < (varint p.toNat).length + p.toNat + 1) :
    (Encoder.afterBytes p n).paddingSent.toNat ≤ p.toNat ∧ (Encoder.afterBytes p n).written = n := by
  have hp := p.isLt
  have hsent : (Encoder.afterBytes p n).paddingSent.toNat = n - (varint p.toNat).length := by
    rw [Encoder.afterBytes, BitVec.toNat_ofNat, Nat.mod_eq_of_lt (by omega)]
  have hwritten : (Encoder.afterBytes p n).written = (varint p.toNat).length + (n - (varint p.toNat).length) := by
    rw [Encoder.written, hsent]
    rfl
  omega

/-- The write that stays short of the frame's end: the bytes that fit, fin 0, and the encoder registers. -/
theorem writeFrame_partial {s : State} {p : PadLen} {b : Byte} {m : Nat} (sid : StreamId) (hwithin : s.enc.Within p)
    (hw : s.enc.WholePrefix p m) (hlt : s.enc.written + m < (frame p.toNat b).length) :
    writeFrame sid p b m s = .next ((s.onEnc fun _ => .afterBytes p (s.enc.written + m)).replied .ok
      (((frame p.toNat b).drop s.enc.written).take m) false) := by
  have hcount : sendCount s.enc (frame p.toNat b) m = m := Nat.min_eq_left (by omega)
  have hshort : s.enc.written + m ≠ (frame p.toNat b).length := by omega
  rw [length_frame] at hlt
  simp only [writeFrame, State.onEnc, sendBytes, hcount, if_neg hshort, (hwithin.advance_partial hw hlt).1]

/-- Settles O31: by R158 the offer takes the rest of the encoded length, if any, and padding; the next `m` bytes. -/
theorem partialSendWritesTheNextBytes : Obligations.PartialSendWritesTheNextBytes := by
  intro s sid m b p hs hcoh hsend hm hb hp hlt
  have hpos : 1 ≤ m.toNat := Nat.pos_of_ne_zero fun h => hm (BitVec.eq_of_toNat_eq h)
  have hwithin : s.enc.Within p := hp ▸ EncoderCoherent.within hcoh _
  have hwhole : s.enc.WholePrefix p m.toNat := hp ▸ EncoderCoherent.wholePrefix hcoh b hpos
  have hshort := hlt
  rw [length_frame] at hshort
  obtain ⟨-, hle⟩ := hwithin.advance_partial hwhole hshort
  refine ⟨.afterBytes p (s.enc.written + m.toNat), ?_, rfl, rfl, (Encoder.afterBytes_written hle hshort).2⟩
  rw [exec_requestSend_queued hs hsend hm hb, ← hp, writeFrame_partial sid hwithin hwhole hlt]
  rfl

/-! Offers one after the other (R152 to R157). -/

/-- The block is writing, on stream `sid`, the frame with padding length `p` and baton `b`, and has written `n` bytes. -/
structure Sending (sid : StreamId) (b : Byte) (p : PadLen) (n : Nat) (s : State) : Prop where
  live : Live s
  queued : s.session.activeSend = some sid
  baton : s.session.batonOut = some b
  known : s.record sid ≠ none
  decided : s.enc.paddingRequired = some p
  within : s.enc.Within p
  prefixSent : s.enc.prefixSent = (varint p.toNat).length
  written : s.enc.written = n

/-- The bytes that the last reply gives. -/
def State.replyBytes (s : State) : List Byte := (s.reply.map (·.bytes)).getD []

theorem offerSpace_cons {s s' t : State} {sid : StreamId} {m : BitVec 16} {rest : List (BitVec 16)}
    {bytes : List Byte} (h : exec (.requestSend sid m) s = .next s') (hrest : offerSpace sid rest s' = some (bytes, t)) :
    offerSpace sid (m :: rest) s = some (s'.replyBytes ++ bytes, t) := by
  simp only [offerSpace, h, hrest]
  rfl

/-- An offer while a frame is written gives the next bytes of the frame; the frame goes on, or is completed. -/
theorem exec_requestSend_frame {s : State} {sid : StreamId} {m : BitVec 16} {b : Byte} {p : PadLen} (hs : Live s)
    (hsend : s.session.activeSend = some sid) (hm : m ≠ 0) (hb : s.session.batonOut = some b)
    (hknown : s.record sid ≠ none) (hp : p = s.enc.paddingRequired.getD (choosePadding b m.toNat))
    (hwithin : s.enc.Within p) (hwhole : s.enc.WholePrefix p m.toNat) :
    ∃ t, exec (.requestSend sid m) s = .next t ∧
      t.replyBytes = ((frame p.toNat b).drop s.enc.written).take m.toNat ∧
      (s.enc.written + m.toNat < (frame p.toNat b).length ∧ Sending sid b p (s.enc.written + m.toNat) t ∨
       (frame p.toNat b).length ≤ s.enc.written + m.toNat ∧ Live t ∧ t.session.activeSend = none) := by
  rw [exec_requestSend_queued hs hsend hm hb, ← hp]
  rcases Nat.lt_or_ge (s.enc.written + m.toNat) (frame p.toNat b).length with hlt | hend
  case inl =>
    have hshort := hlt
    rw [length_frame] at hshort
    obtain ⟨-, hle⟩ := hwithin.advance_partial hwhole hshort
    obtain ⟨hpadding, hwritten⟩ := Encoder.afterBytes_written hle hshort
    exact ⟨_, writeFrame_partial sid hwithin hwhole hlt, rfl, .inl ⟨hlt, {
      live := hs
      queued := hsend
      baton := hb
      known := hknown
      decided := rfl
      within := ⟨Nat.le_refl _, hpadding⟩
      prefixSent := rfl
      written := hwritten }⟩⟩
  case inr =>
    obtain ⟨rec, hrec⟩ := Option.ne_none_iff_exists'.1 hknown
    have hall : ((frame p.toNat b).drop s.enc.written).length ≤ m.toNat := by
      rw [List.length_drop]
      omega
    have hin : inSession (if s.session.state = .done then .done else .sent) = true := by split <;> rfl
    refine ⟨_, writeFrame_completes hwithin hrec hend, ?_, .inr ⟨hend, ⟨hs.1, hin⟩, rfl⟩⟩
    rw [List.take_of_length_le hall]
    rfl

/-- With no frame queued every offer is declined. -/
theorem offerSpace_nothing {s : State} (offers : List (BitVec 16)) (sid : StreamId) (hs : Live s)
    (hsend : s.session.activeSend = none) : ∃ t, offerSpace sid offers s = some ([], t) ∧ t.session.activeSend = none := by
  induction offers generalizing s with
  | nil => exact ⟨s, rfl, hsend⟩
  | cons m rest ih =>
    obtain ⟨t, ht, hnone⟩ := ih (s := s.replied .ok [] false) hs hsend
    exact ⟨t, offerSpace_cons (exec_requestSend_nothing hs (.inl (by simp [hsend]))) ht, hnone⟩

/-- Taking some elements and then more is taking them together. -/
theorem take_drop_append {α : Type} (l : List α) (n m k : Nat) :
    (l.drop n).take m ++ (l.drop (n + m)).take k = (l.drop n).take (m + k) := by
  rw [List.take_add, List.drop_drop]

/-- Offers while a frame is written: the bytes written are the next ones of the frame. -/
theorem Sending.offerSpace {s : State} {sid : StreamId} {b : Byte} {p : PadLen} {n : Nat} (h : Sending sid b p n s)
    (offers : List (BitVec 16)) (hlt : n < (frame p.toNat b).length) :
    ∃ t, offerSpace sid offers s =
        some (((frame p.toNat b).drop n).take (offers.map (·.toNat)).sum, t) ∧
      (t.session.activeSend = none ↔ (frame p.toNat b).length ≤ n + (offers.map (·.toNat)).sum) := by
  induction offers generalizing s n with
  | nil =>
    refine ⟨s, by simp [Machine.offerSpace], ?_⟩
    simp [h.queued, Nat.not_le.2 hlt]
  | cons m rest ih =>
    rw [List.map_cons, List.sum_cons]
    by_cases hm : m = 0
    case pos =>
      subst hm
      obtain ⟨t, ht, hiff⟩ := ih (s := s.replied .ok [] false) { h with } hlt
      refine ⟨t, (offerSpace_cons (exec_requestSend_nothing h.live (.inr rfl)) ht).trans ?_, ?_⟩
      · simp [State.replyBytes]
      · simpa using hiff
    case neg =>
      obtain ⟨u, hu, hbytes, hnext⟩ := exec_requestSend_frame h.live h.queued hm h.baton h.known
        (by rw [h.decided]; rfl) h.within (.inl h.prefixSent)
      rw [h.written] at hbytes hnext
      rcases hnext with ⟨hgoes, hsending⟩ | ⟨hend, hlive, hnone⟩
      · obtain ⟨t, ht, hiff⟩ := ih hsending hgoes
        refine ⟨t, (offerSpace_cons hu ht).trans ?_, by rw [hiff, Nat.add_assoc]⟩
        rw [hbytes, take_drop_append]
      · obtain ⟨t, ht, htnone⟩ := offerSpace_nothing rest sid hlive hnone
        refine ⟨t, (offerSpace_cons hu ht).trans ?_, iff_of_true htnone (by omega)⟩
        rw [hbytes, List.append_nil, List.take_of_length_le, List.take_of_length_le]
        · rw [List.length_drop]; omega
        · rw [List.length_drop]; omega

/-- Offers on an armed stream: up to the first offer that is not empty nothing is written, and that one decides the
frame. -/
theorem offerSpace_undecided {s : State} {sid : StreamId} {b : Byte} (hs : Live s) (hcoh : EncoderCoherent s)
    (hsend : s.session.activeSend = some sid) (hb : s.session.batonOut = some b) (hknown : s.record sid ≠ none)
    (hundecided : s.enc.paddingRequired = none) (offers : List (BitVec 16)) :
    ∃ t, offerSpace sid offers s =
        some ((frame (choosePadding b (((offers.find? (fun m => m != 0)).getD 1).toNat)).toNat b).take
          (offers.map (·.toNat)).sum, t) ∧
      (t.session.activeSend = none ↔
        (frame (choosePadding b (((offers.find? (fun m => m != 0)).getD 1).toNat)).toNat b).length ≤
          (offers.map (·.toNat)).sum) := by
  induction offers generalizing s with
  | nil =>
    refine ⟨s, by simp [Machine.offerSpace], ?_⟩
    simp [hsend, length_frame]
  | cons m rest ih =>
    by_cases hm : m = 0
    case pos =>
      subst hm
      obtain ⟨t, ht, hiff⟩ := ih (s := s.replied .ok [] false) hs hcoh hsend hb hknown hundecided
      refine ⟨t, (offerSpace_cons (exec_requestSend_nothing hs (.inr rfl)) ht).trans ?_, ?_⟩
      · simp [State.replyBytes]
      · simpa using hiff
    case neg =>
      have hpos : 1 ≤ m.toNat := Nat.pos_of_ne_zero fun h => hm (BitVec.eq_of_toNat_eq h)
      have hfirst : ((m :: rest).find? (fun m => m != 0)).getD 1 = m := by
        rw [List.find?_cons_of_pos (by simpa using hm), Option.getD_some]
      have hzero : s.enc.written = 0 := by
        obtain ⟨-, hnothing, -⟩ := hcoh
        obtain ⟨hprefix, hpadding⟩ := hnothing hundecided
        simp [Encoder.written, hprefix, hpadding]
      have hp : choosePadding b m.toNat = s.enc.paddingRequired.getD (choosePadding b m.toNat) := by rw [hundecided]; rfl
      obtain ⟨u, hu, hbytes, hnext⟩ := exec_requestSend_frame hs hsend hm hb hknown hp
        (hp ▸ EncoderCoherent.within hcoh _) (hp ▸ EncoderCoherent.wholePrefix hcoh b hpos)
      rw [hzero, Nat.zero_add] at hnext
      rw [hzero, List.drop_zero] at hbytes
      rw [hfirst, List.map_cons, List.sum_cons]
      rcases hnext with ⟨hgoes, hsending⟩ | ⟨hend, hlive, hnone⟩
      · obtain ⟨t, ht, hiff⟩ := hsending.offerSpace rest hgoes
        refine ⟨t, (offerSpace_cons hu ht).trans ?_, hiff⟩
        rw [hbytes, List.take_add]
      · obtain ⟨t, ht, htnone⟩ := offerSpace_nothing rest sid hlive hnone
        refine ⟨t, (offerSpace_cons hu ht).trans ?_, iff_of_true htnone (by omega)⟩
        rw [hbytes, List.append_nil, List.take_of_length_le hend, List.take_of_length_le (by omega)]

/-- Settles O33, by induction on the offers: nothing is written up to the first one that is not empty; it decides the
frame, and every later one takes the next bytes until the frame is completed. -/
theorem offersConcatenateToTheFrame : Obligations.OffersConcatenateToTheFrame := by
  intro s sid b offers hs hcoh hsend hb hundecided
  obtain ⟨-, -, henc, -, hlive⟩ := hcoh
  obtain ⟨-, -, -, -, -, hopen, -⟩ := hlive hs
  have hknown : s.record sid ≠ none := fun hnone => by
    have hfin := hopen sid hsend
    simp [hnone] at hfin
  exact offerSpace_undecided hs henc hsend hb hknown hundecided offers

end Sys2Proof.Machine
end

section
/-! PROOFS. The step (spec/20_memory.md R66), and the families of spec/42_session_fsm.md and spec/43_dispatcher.md that say
one command's or one dispatch's next state: session creation and release (R170 to R174), the zero baton (R180), and the
routes of a dispatch (R200 to R205). -/

namespace Sys2Proof.Machine

/-! The step. -/

theorem step_of_decode_ok {s : State} {d : Delivery} {rest : List Delivery} {i : Instr}
    (hf : s.fault = none) (hin : s.inbox = d :: rest) (hd : decode d.word d.payload = .ok i) :
    step s = exec i { s with inbox := rest, openAnswer := d.openAnswer } := by
  have hfetch : fetch s = some (d, { s with inbox := rest, openAnswer := d.openAnswer }) := by simp only [fetch, hin]
  simp only [step, hf, hfetch, hd]

theorem step_of_empty {s : State} (hf : s.fault = none) (hin : s.inbox = []) : step s = .next s := by
  simp only [step, hf, fetch, hin]

theorem step_of_halted {s : State} {kind : ModelFault} (hf : s.fault = some kind) :
    step s = .fault (.halted kind) := by simp only [step, hf]

theorem exec_of_halted {s : State} {kind : ModelFault} (hf : s.fault = some kind) (i : Instr) :
    exec i s = .fault (.halted kind) := by
  obtain ⟨body, hbody⟩ := exec_eq_checked i s
  rw [hbody, checked, hf]

/-- Settles O8: what decodes is well formed (O2), and the step runs it on the state `fetch` leaves. -/
theorem stepRunsTheDecodedCommand : Obligations.StepRunsTheDecodedCommand := by
  intro s d rest i hf hin hd
  exact ⟨(encodeOfDecode d.word d.payload i hd).1, step_of_decode_ok hf hin hd⟩

/-- Settles O9: the inbox holds nothing to fetch. -/
theorem stepWaitsForACommand : Obligations.StepWaitsForACommand := fun _ hf hin => step_of_empty hf hin

/-- Settles O10: the fault register is the first thing that the step, and every command, looks at. -/
theorem haltedBlockHasNoStep : Obligations.HaltedBlockHasNoStep :=
  fun _ _ hf => ⟨step_of_halted hf, exec_of_halted hf⟩

/-! The stream table: of two records written for one stream the last one stays. -/

theorem storeKey_storeKey {β : Type} (m : List (Nat × β)) (a : Nat) (v w : β) :
    storeKey (storeKey m a v) a w = storeKey m a w := by
  induction m with
  | nil => simp [storeKey]
  | cons p m ih =>
    obtain ⟨k, u⟩ := p
    rcases Nat.lt_trichotomy a k with hlt | rfl | hgt
    · simp [storeKey, hlt]
    · simp [storeKey]
    · simp [storeKey, Nat.not_lt.2 hgt.le, hgt.ne', ih]

theorem StreamTable.put_put (t : StreamTable) (sid : StreamId) (rec rec' : StreamRecord) :
    (t.put sid rec).put sid rec' = t.put sid rec' := storeKey_storeKey t _ rec rec'

/-! Session creation (R170 to R172). -/

theorem noSession_iff (st : SessionState) : noSession st = true ↔ st = .idle := by cases st <;> decide

theorem exec_accept_idle {s : State} {seed : Byte} (hf : s.fault = none) (hidle : s.session.state = .idle)
    (hseed : seedLegal seed = true) (sid : StreamId) (bidi isLocal : Bool) :
    exec (.accept sid bidi isLocal seed) s =
      dispatchTurn none (s.createSession .responder sid bidi isLocal (some seed)) :=
  checked_run (i := .accept sid bidi isLocal seed) hf hseed ((noSession_iff _).2 hidle) fun s =>
    dispatchTurn none (s.createSession .responder sid bidi isLocal (some seed))

theorem exec_connect_idle {s : State} (hf : s.fault = none) (hidle : s.session.state = .idle) (sid : StreamId)
    (bidi isLocal : Bool) :
    exec (.connect sid bidi isLocal) s = answer .ok (s.createSession .initiator sid bidi isLocal none) :=
  checked_run (i := .connect sid bidi isLocal) hf rfl ((noSession_iff _).2 hidle) fun s =>
    answer .ok (s.createSession .initiator sid bidi isLocal none)

theorem seedLegal_of {seed : Byte} (hmin : 1 ≤ seed.toNat) (hmax : seed.toNat ≤ 128) : seedLegal seed = true :=
  Bool.and_eq_true_iff.2 ⟨decide_eq_true hmin, decide_eq_true hmax⟩

/-- A dispatch at session start opens a unidirectional stream (R202). -/
theorem dispatchTurn_start {s : State} (h : s.session.activeSend = none) :
    dispatchTurn none s = openAndArm false s := by simp only [dispatchTurn, h]

theorem openAndArm_opened {s : State} {a c : StreamId} (ha : s.openAnswer = some a)
    (hc : s.session.controlStreamId = some c) (bidi : Bool) :
    openAndArm bidi s = armStream a ((s.emit (openEvent bidi (some a))).headStream bidi a c) := by
  simp only [openAndArm, ha, hc, needed_some]

theorem armStream_counted {s : State} (sid : StreamId) (h : s.session.turnCount.toNat + 1 < 2 ^ 64) :
    armStream sid s = answer .ok
      (((s.onSession fun x => { x with
          turnCount := BitVec.ofNat 64 (s.session.turnCount.toNat + 1), activeSend := some sid }).onEnc
        fun _ => .reset).emit (.markActive sid s.cfg.sendPriority)) := by
  simp only [armStream, addCounter_of_lt h]

theorem armStream_overflow {s : State} (sid : StreamId) (h : 2 ^ 64 ≤ s.session.turnCount.toNat + 1) :
    armStream sid s = raiseFault .counterOverflow s := by
  simp only [armStream, addCounter_none.2 h]

/-- Settles O13: the start of a session opens a unidirectional stream, and the turn counter is 0 before it counts. -/
theorem acceptCreatesAndDispatches : Obligations.AcceptCreatesAndDispatches := by
  intro s sid bidi isLocal seed a hf hidle hmin hmax ha
  rw [exec_accept_idle hf hidle (seedLegal_of hmin hmax), dispatchTurn_start rfl,
    openAndArm_opened (s := s.createSession .responder sid bidi isLocal (some seed)) ha rfl,
    armStream_counted (s := ((s.createSession .responder sid bidi isLocal (some seed)).emit _).headStream false a sid) a
      (show (0 : Counter).toNat + 1 < 2 ^ 64 by decide)]
  simp only [answer, State.replied, State.emit, State.headStream, State.createSession, State.clearRegisters,
    State.putRecord, State.onSession, State.onEnc, openEvent, header, headerTag, List.append_assoc, List.cons_append,
    List.nil_append]
  rfl

/-- Settles O14: the control stream was created unfinished, so the failed open's close sends its message. -/
theorem acceptWithoutCreditCloses : Obligations.AcceptWithoutCreditCloses := by
  intro s sid bidi isLocal seed hf hidle hmin hmax hfail
  have hrec : ((s.createSession .responder sid bidi isLocal (some seed)).emit (openEvent false none)).record sid =
      some (newRecord bidi isLocal) := State.record_putRecord_same s.clearRegisters sid (newRecord bidi isLocal)
  rw [exec_accept_idle hf hidle (seedLegal_of hmin hmax), dispatchTurn_start rfl,
    openAndArm_openFailed (s := s.createSession .responder sid bidi isLocal (some seed)) hfail,
    closeSession_run rfl hrec, State.closeOn_of_unfinished rfl]
  simp [State.replied, State.emit, State.sendClose, State.markClosed, State.createSession, State.clearRegisters,
    State.putRecord, State.onSession, openEvent, reasonOf, StreamTable.put_put, Session.reset]

/-- Settles O15: session creation, then the reply. -/
theorem connectCreatesInitiator : Obligations.ConnectCreatesInitiator := by
  intro s sid bidi isLocal hf hidle
  rw [exec_connect_idle hf hidle]
  rfl

/-! Session release (R174). -/

theorem sessionExists_iff (st : SessionState) : sessionExists st = true ↔ st ≠ .idle := by cases st <;> decide

theorem exec_deregister_session {s : State} (hf : s.fault = none) (hs : s.session.state ≠ .idle) :
    exec .deregister s = needed .role s.session.role fun role =>
      if role = .responder then answer .ok s.clearRegisters else answer .ok ({ s with table := [] }.markClosed) := by
  rw [exec, execDeregister, checked_run hf rfl ((sessionExists_iff _).2 hs)]
  congr
  funext role
  cases role <;> rfl

/-- Settles O16: the responder's branch clears the registers. -/
theorem deregisterReleasesResponder : Obligations.DeregisterReleasesResponder := by
  intro s hf hs hrole
  rw [exec_deregister_session hf hs, hrole, needed_some, if_pos rfl]
  rfl

/-- Settles O17: the initiator's branch empties the table and marks the session closed. -/
theorem deregisterMarksInitiatorClosed : Obligations.DeregisterMarksInitiatorClosed := by
  intro s hf hs hrole
  rw [exec_deregister_session hf hs, hrole, needed_some, if_neg (by decide)]
  rfl

/-! The zero baton (R180). -/

theorem turnCheck_of_zero {s : State} {r : StreamId} {rec : StreamRecord} (hb : s.session.batonIn = some 0)
    (hr : s.session.activeRecv = some r) (hrec : s.record r = some rec) : turnCheck s = zeroBaton r rec s := by
  rw [turnCheck, hb, hr, needed_some, needed_some, if_pos rfl]
  exact withRecord_some hrec _

theorem finOwed_iff (rec : StreamRecord) :
    finOwed rec = true ↔ rec.bidi = true ∧ rec.isLocal = false ∧ rec.finSent = false := by
  simp [finOwed, and_assoc]

/-- Settles O34: the two clauses are the two values of the test of step 1; the close that follows overwrites DONE. -/
theorem zeroBatonClosesWithSuccess : Obligations.ZeroBatonClosesWithSuccess := by
  intro s r c rec crec hb hr hrec hc hne hcrec hopen
  rw [turnCheck_of_zero hb hr hrec, zeroBaton]
  refine ⟨fun howed => ?finished, fun hnot => ?closed⟩
  case finished =>
    have hcrec' : ((s.emit (.finStream r)).putRecord r { rec with finSent := true }).record c = some crec :=
      (State.record_putRecord_ne (s.emit (.finStream r)) _ hne).trans hcrec
    have hcontrol : (((s.emit (.finStream r)).putRecord r { rec with finSent := true }).onSession
        fun x => { x with state := .done }).session.controlStreamId = some c := hc
    rw [if_pos ((finOwed_iff rec).2 howed), closeSession_run hcontrol hcrec', State.closeOn_of_unfinished hopen]
    simp [State.replied, State.emit, State.sendClose, State.markClosed, State.putRecord, State.onSession, reasonOf]
  case closed =>
    have hcontrol : (s.onSession fun x => { x with state := .done }).session.controlStreamId = some c := hc
    rw [if_neg (mt (finOwed_iff rec).1 hnot), closeSession_run hcontrol hcrec, State.closeOn_of_unfinished hopen]
    rfl

/-! The routes of a dispatch (R202 to R205). -/

/-- Settles O37: a route for each direction and origin of the inbound stream. -/
theorem dispatchRoutes : Obligations.DispatchRoutes := by
  refine ⟨fun reading => rfl, fun reading rec hbidi => ?uni, fun rec hbidi hlocal => ?remote,
    fun rec hbidi hlocal => ?localStream⟩
  case uni => simp [selectRoute, hbidi]
  case remote => simp [selectRoute, hbidi, hlocal]
  case localStream => simp [selectRoute, hbidi, hlocal]

/-- Settles O38: past the open, the header and the record are written before the turn counter decides. -/
theorem dispatchOpensAndArms : Obligations.DispatchOpensAndArms := by
  intro s r c a rec bidi hidle hrec hc hroute ha
  rw [dispatchTurn_inbound hidle hrec, dispatchInbound_newStream r hroute, openAndArm_opened ha hc]
  refine ⟨fun hlt => ?armed, fun hmax => ?overflow⟩
  case armed =>
    rw [armStream_counted (s := (s.emit _).headStream bidi a c) a hlt]
    simp [answer, State.replied, State.emit, State.headStream, State.putRecord, State.onSession, State.onEnc, openEvent,
      header, headerTag, newRecord, Encoder.reset]
  case overflow =>
    rw [armStream_overflow (s := (s.emit _).headStream bidi a c) a hmax.ge]
    simp [raiseFault, State.emit, State.headStream, State.putRecord, openEvent, header, headerTag, newRecord]

theorem dispatchInbound_same {s : State} {r : StreamId} {rec : StreamRecord}
    (hroute : selectRoute s.cfg.bidiDispatch (some rec) = .same) : dispatchInbound r rec s = armSame r rec s := by
  simp only [dispatchInbound, hroute]

/-- Settles O40: the record of the inbound stream, and then the turn counter, decide. -/
theorem dispatchOnTheSameStream : Obligations.DispatchOnTheSameStream := by
  intro s r rec hidle hrec hroute
  rw [dispatchTurn_inbound hidle hrec, dispatchInbound_same hroute, armSame]
  refine ⟨fun hfin => ?finished, fun hopen hlt => ?armed, fun hopen hmax => ?overflow⟩
  case finished =>
    rw [if_pos hfin]
    rfl
  case armed =>
    rw [if_neg (by simp [hopen]), armStream_counted r hlt]
    rfl
  case overflow =>
    rw [if_neg (by simp [hopen]), armStream_overflow r hmax.ge]
    rfl

end Sys2Proof.Machine
end

section
/-! PROOFS. The family of spec/44_close.md: the commands that close (R222, R223), and a close on a finished control stream
(R221). -/

namespace Sys2Proof.Machine

theorem exec_notifyReset_live {s : State} (hs : Live s) (sid : StreamId) :
    exec (.notifyReset sid) s = closeThen .allStreamsReset s fun s' =>
      needed .role s'.session.role fun role => answer .errReset (s'.tearDown role) :=
  checked_run (i := .notifyReset sid) hs.1 rfl hs.2 fun s => closeThen .allStreamsReset s fun s' =>
    needed .role s'.session.role fun role => answer .errReset (s'.tearDown role)

theorem exec_idleTimeout_live {s : State} (hs : Live s) : exec .idleTimeout s = closeSession .idleTimeout .errTimeout s :=
  checked_run (i := .idleTimeout) hs.1 rfl hs.2 (closeSession .idleTimeout .errTimeout)

theorem closeThen_run {s : State} {c : StreamId} {rec : StreamRecord} (hc : s.session.controlStreamId = some c)
    (hrec : s.record c = some rec) (code : CloseCode) (k : State → Result) :
    closeThen code s k = k (s.closeOn c rec code) := by
  rw [closeThen, hc, needed_some, withRecord_some hrec]

/-- Settles O42: the close of an unfinished control stream, with IDLE_TIMEOUT's code and outcome. -/
theorem idleTimeoutCloses : Obligations.IdleTimeoutCloses := by
  intro s c crec hs hc hcrec hopen
  rw [exec_idleTimeout_live hs, closeSession_run hc hcrec, State.closeOn_of_unfinished hopen]
  rfl

/-- Settles O43: the close, then, on the initiator only, the connection's. -/
theorem notifyResetCloses : Obligations.NotifyResetCloses := by
  intro s sid c crec role hs hrole hc hcrec hopen
  have hkept : (s.closeOn c crec .allStreamsReset).session.role = some role := by rw [State.closeOn_session, hrole]
  rw [exec_notifyReset_live hs, closeThen_run hc hcrec, hkept, needed_some, State.closeOn_of_unfinished hopen]
  cases role with
  | responder => rfl
  | initiator => simp [State.tearDown, answer, State.replied, State.emit, State.sendClose, State.markClosed,
      State.putRecord, State.onSession, reasonOf]

/-- The close procedure where the control stream is finished: CLOSED, and nothing sent (R221). -/
theorem State.closeOn_of_finished {rec : StreamRecord} (h : rec.finSent = true) (s : State) (c : StreamId)
    (code : CloseCode) : s.closeOn c rec code = s.markClosed := by
  rw [State.closeOn, if_pos h]

/-- Settles O44: with the control stream finished the close procedure only marks the session closed. -/
theorem closeIsIdempotent : Obligations.CloseIsIdempotent := by
  intro s code o c crec hc hcrec hfin
  rw [closeSession_run hc hcrec, State.closeOn_of_finished hfin]
  rfl

end Sys2Proof.Machine
end

section
/-! PROOFS. The family of spec/45_datagram.md: what the datagram commands answer (R242, R244), and that a datagram sent is
one that is recorded. -/

namespace Sys2Proof.Machine

/-! REQUEST_DATAGRAM (R242). -/

theorem exec_requestDatagram_live {s : State} (hs : Live s) (m pad : BitVec 16) :
    exec (.requestDatagram m pad) s =
      if !s.dgram.ready || decide (dgramCap m < 2) then answer .ok s
      else
        needed .nextDatagramValue s.dgram.nextValue fun value =>
          countSent (dgramBytes m pad value).length (s.onDgram fun g => { g with ready := false }) fun s' =>
            .next (s'.replied .ok (dgramBytes m pad value) false) :=
  checked_run (i := .requestDatagram m pad) hs.1 rfl hs.2 fun s =>
    if !s.dgram.ready || decide (dgramCap m < 2) then answer .ok s
    else
      needed .nextDatagramValue s.dgram.nextValue fun value =>
        countSent (dgramBytes m pad value).length (s.onDgram fun g => { g with ready := false }) fun s' =>
          .next (s'.replied .ok (dgramBytes m pad value) false)

/-- The cap of an offer is below 2 exactly where the offer is (R242). -/
theorem dgramCap_lt_two_iff (m : BitVec 16) : dgramCap m < 2 ↔ m.toNat < 2 := by
  rw [dgramCap, Config.dgramMax]
  omega

theorem exec_requestDatagram_declined {s : State} {m : BitVec 16} (hs : Live s)
    (h : s.dgram.ready = false ∨ m.toNat < 2) (pad : BitVec 16) :
    exec (.requestDatagram m pad) s = answer .ok s := by
  have hdeclined : (!s.dgram.ready || decide (dgramCap m < 2)) = true := by
    rw [Bool.or_eq_true, Bool.not_eq_true', decide_eq_true_iff, dgramCap_lt_two_iff]
    exact h
  rw [exec_requestDatagram_live hs, if_pos hdeclined]

theorem exec_requestDatagram_armed {s : State} {m : BitVec 16} {v : Byte} (hs : Live s) (hready : s.dgram.ready = true)
    (hv : s.dgram.nextValue = some v) (hm : 2 ≤ m.toNat) (pad : BitVec 16) :
    exec (.requestDatagram m pad) s =
      countSent (dgramBytes m pad v).length (s.onDgram fun g => { g with ready := false }) fun s' =>
        .next (s'.replied .ok (dgramBytes m pad v) false) := by
  have hcap : ¬ dgramCap m < 2 := mt (dgramCap_lt_two_iff m).1 (Nat.not_lt.2 hm)
  rw [exec_requestDatagram_live hs, hready, decide_eq_false hcap, hv, needed_some]
  rfl

/-- Every datagram fits the cap of its offer (R242, R243). -/
theorem length_dgramBytes_le {m : BitVec 16} (hm : 2 ≤ m.toNat) (pad : BitVec 16) (v : Byte) :
    (dgramBytes m pad v).length ≤ dgramCap m := by
  have hmin : 2 ≤ dgramCap m := Nat.not_lt.1 (mt (dgramCap_lt_two_iff m).1 (Nat.not_lt.2 hm))
  obtain ⟨p, hp, hbytes⟩ := dgramBytes_eq_frame m pad v
  rw [hbytes, length_frame]
  exact (le_pmax_iff hmin (Nat.min_le_right _ _) p).1 hp

/-- The two counters of the sent datagrams, in their order (R242). -/
theorem countSent_counted {s : State} {n : Nat} (hsent : s.dgram.sent.toNat + 1 < 2 ^ 64)
    (hbytes : s.dgram.bytesSent.toNat + n < 2 ^ 64) (k : State → Result) :
    countSent n s k = k (s.onDgram fun g => { g with
      sent := BitVec.ofNat 64 (s.dgram.sent.toNat + 1), bytesSent := BitVec.ofNat 64 (s.dgram.bytesSent.toNat + n) }) := by
  simp only [countSent, addCounter_of_lt hsent, addCounter_of_lt hbytes]

theorem countSent_bytesOverflow {s : State} {n : Nat} (hsent : s.dgram.sent.toNat + 1 < 2 ^ 64)
    (hbytes : 2 ^ 64 ≤ s.dgram.bytesSent.toNat + n) (k : State → Result) :
    countSent n s k = raiseFault .counterOverflow
      (s.onDgram fun g => { g with sent := BitVec.ofNat 64 (s.dgram.sent.toNat + 1) }) := by
  simp only [countSent, addCounter_of_lt hsent, addCounter_none.2 hbytes]

theorem countSent_overflow {s : State} (hsent : 2 ^ 64 ≤ s.dgram.sent.toNat + 1) (n : Nat) (k : State → Result) :
    countSent n s k = raiseFault .counterOverflow s := by
  simp only [countSent, addCounter_none.2 hsent]

/-- Settles O47: an armed block disarms and counts, and the two counters decide; otherwise the request is declined. -/
theorem requestDatagramAnswers : Obligations.RequestDatagramAnswers := by
  intro s m pad hs
  refine ⟨fun v dg hready hv hm hdg => ?armed, fun hdeclined => ?declined⟩
  case armed =>
    obtain rfl : dg = dgramBytes m pad v := hdg
    rw [exec_requestDatagram_armed hs hready hv hm]
    refine ⟨length_dgramBytes_le hm pad v, fun hsent hbytes => ?_, fun hsent hbytes => ?_, fun hsent => ?_⟩
    · rw [countSent_counted (s := s.onDgram fun g => { g with ready := false }) hsent hbytes]
      rfl
    · rw [countSent_bytesOverflow (s := s.onDgram fun g => { g with ready := false }) hsent hbytes]
      rfl
    · rw [countSent_overflow (s := s.onDgram fun g => { g with ready := false }) hsent.ge]
      rfl
  case declined =>
    rw [exec_requestDatagram_declined hs hdeclined]
    rfl

/-! DELIVER_DATAGRAM (R244). -/

theorem exec_deliverDatagram_discarded {s : State} {payload : List Byte} (hs : Live s) (hp : payload.length < 2 ^ 16)
    (h : dgramBaton payload = none) : exec (.deliverDatagram payload) s = answer .ok s := by
  have hwf : (Instr.deliverDatagram payload).wf = true := decide_eq_true hp
  rw [exec, execDeliverDatagram, checked_run hs.1 hwf hs.2]
  simp only [h]

theorem exec_deliverDatagram_recorded {s : State} {payload : List Byte} {v : Byte} (hs : Live s)
    (hp : payload.length < 2 ^ 16) (h : dgramBaton payload = some v) :
    exec (.deliverDatagram payload) s =
      countReceived payload.length (s.onDgram fun g => { g with lastValue := some v }) (answer .ok) := by
  have hwf : (Instr.deliverDatagram payload).wf = true := decide_eq_true hp
  rw [exec, execDeliverDatagram, checked_run hs.1 hwf hs.2]
  simp only [h]

/-- The two counters of the received datagrams, in their order (R244). -/
theorem countReceived_counted {s : State} {n : Nat} (hreceived : s.dgram.received.toNat + 1 < 2 ^ 64)
    (hbytes : s.dgram.bytesReceived.toNat + n < 2 ^ 64) (k : State → Result) :
    countReceived n s k = k (s.onDgram fun g => { g with
      received := BitVec.ofNat 64 (s.dgram.received.toNat + 1)
      bytesReceived := BitVec.ofNat 64 (s.dgram.bytesReceived.toNat + n) }) := by
  simp only [countReceived, addCounter_of_lt hreceived, addCounter_of_lt hbytes]

theorem countReceived_bytesOverflow {s : State} {n : Nat} (hreceived : s.dgram.received.toNat + 1 < 2 ^ 64)
    (hbytes : 2 ^ 64 ≤ s.dgram.bytesReceived.toNat + n) (k : State → Result) :
    countReceived n s k = raiseFault .counterOverflow
      (s.onDgram fun g => { g with received := BitVec.ofNat 64 (s.dgram.received.toNat + 1) }) := by
  simp only [countReceived, addCounter_of_lt hreceived, addCounter_none.2 hbytes]

theorem countReceived_overflow {s : State} (hreceived : 2 ^ 64 ≤ s.dgram.received.toNat + 1) (n : Nat)
    (k : State → Result) : countReceived n s k = raiseFault .counterOverflow s := by
  simp only [countReceived, addCounter_none.2 hreceived]

theorem vlen_pos (b : Byte) : 0 < vlen b := by
  rw [vlen, Nat.one_shiftLeft]
  exact Nat.two_pow_pos _

/-- The bytes of a frame are an accepted datagram, with the last byte as value (R244). -/
theorem dgramBaton_frame {pfx padding : List Byte} (h : IsFrame pfx padding) (v : Byte) :
    dgramBaton (pfx ++ padding ++ [v]) = some v := by
  obtain ⟨⟨hhead, htwo⟩, hpadding⟩ := h
  obtain ⟨b0, rest, rfl⟩ : ∃ b0 rest, pfx = b0 :: rest := by
    cases pfx with
    | nil => cases hhead
    | cons b0 rest => exact ⟨b0, rest, rfl⟩
  have hv : vlen b0 = (b0 :: rest).length := Option.some.inj hhead
  have htake : (b0 :: rest ++ padding ++ [v]).take (vlen b0) = b0 :: rest := by
    rw [hv, List.append_assoc, List.take_left]
  have hlast : (b0 :: rest ++ padding ++ [v]).getLast? = some v := List.getLast?_concat
  have hlen : (b0 :: rest ++ padding ++ [v]).length = vlen b0 + varintValue (b0 :: rest) + 1 := by
    rw [List.length_append, List.length_append, List.length_singleton, hv, hpadding]
  have hfits : ¬ (vlen b0 > 2 ∨ (b0 :: rest ++ padding ++ [v]).length < vlen b0) := by omega
  rw [List.cons_append, List.cons_append] at htake hlast hlen hfits ⊢
  simp only [dgramBaton]
  rw [if_neg hfits, htake, if_neg (not_not_intro hlen), hlast]

/-- What an accepted datagram's bytes pass: a first byte that announces at most two, all of which are there, the length
that they declare, and the value last. -/
theorem dgramBaton_some {bytes : List Byte} {v : Byte} (h : dgramBaton bytes = some v) :
    ∃ b0, bytes.head? = some b0 ∧ vlen b0 ≤ 2 ∧ bytes.length = vlen b0 + varintValue (bytes.take (vlen b0)) + 1 ∧
      bytes.getLast? = some v := by
  cases bytes with
  | nil => cases h
  | cons b0 rest =>
    simp only [dgramBaton] at h
    split at h
    · cases h
    · rename_i hshort
      split at h
      · cases h
      · rename_i hlen
        exact ⟨b0, rfl, Nat.not_lt.1 (not_or.1 hshort).1, not_not.1 hlen, h⟩

/-- A datagram is accepted exactly where it is an encoded padding length, as much padding as it says, and one byte more;
that byte is its value (R244). -/
theorem dgramBaton_eq_some_iff (bytes : List Byte) (v : Byte) :
    dgramBaton bytes = some v ↔ ∃ pfx padding, IsFrame pfx padding ∧ bytes = pfx ++ padding ++ [v] := by
  constructor
  case mp =>
    intro h
    obtain ⟨b0, hhead, hv, hlen, hlast⟩ := dgramBaton_some h
    have hsplit : bytes.dropLast ++ [v] = bytes := List.dropLast_append_getLast? v hlast
    have htake : bytes.take (vlen b0) = bytes.dropLast.take (vlen b0) := by
      conv_lhs => rw [← hsplit]
      rw [List.take_append_of_le_length]
      rw [List.length_dropLast]
      omega
    have hcount : (bytes.take (vlen b0)).length = vlen b0 := by
      rw [List.length_take]
      omega
    refine ⟨bytes.take (vlen b0), bytes.dropLast.drop (vlen b0), ⟨⟨?_, ?_⟩, ?_⟩, ?_⟩
    · rw [hcount, List.head?_take, if_neg (vlen_pos b0).ne', hhead]
      rfl
    · rwa [hcount]
    · rw [List.length_drop, List.length_dropLast]
      omega
    · rw [htake, List.take_append_drop, hsplit]
  case mpr =>
    rintro ⟨pfx, padding, hframe, rfl⟩
    exact dgramBaton_frame hframe v

/-- Settles O49: the datagram is accepted with its last byte as value, and the two counters decide. -/
theorem wellFormedDatagramIsRecorded : Obligations.WellFormedDatagramIsRecorded := by
  intro s pfx padding v hs hframe
  have hbaton := dgramBaton_frame hframe v
  rw [exec_deliverDatagram_recorded hs (hframe.length_lt v) hbaton]
  refine ⟨fun hreceived hbytes => ?_, fun hreceived hbytes => ?_, fun hreceived => ?_⟩
  · rw [countReceived_counted (s := s.onDgram fun g => { g with lastValue := some v }) hreceived hbytes]
    rfl
  · rw [countReceived_bytesOverflow (s := s.onDgram fun g => { g with lastValue := some v }) hreceived hbytes]
    rfl
  · rw [countReceived_overflow (s := s.onDgram fun g => { g with lastValue := some v }) hreceived.ge]
    rfl

/-- Settles O50: bytes that are no frame are not accepted. -/
theorem malformedDatagramIsDiscarded : Obligations.MalformedDatagramIsDiscarded := by
  intro s bytes hs hp hnot
  have hnone : dgramBaton bytes = none := by
    refine Option.eq_none_iff_forall_ne_some.2 fun v hv => ?_
    obtain ⟨pfx, padding, hframe, hbytes⟩ := (dgramBaton_eq_some_iff bytes v).1 hv
    exact hnot pfx padding v hframe hbytes
  rw [exec_deliverDatagram_discarded hs hp hnone]
  rfl

/-- The minimal encoding of a padding length of at most 16383 is one the receiver accepts, and announces that length. -/
theorem isFrame_varint {p : Nat} (hp : p ≤ Config.pad2bMax) : IsFrame (varint p) (List.replicate p 0) := by
  have hlt : p < 2 ^ 62 := hp.trans_lt (by decide)
  obtain ⟨hvalue, hhead, -⟩ := varintRoundTrip p hlt
  refine ⟨⟨hhead, ?_⟩, by rw [List.length_replicate, hvalue]⟩
  rcases Nat.lt_or_ge Config.pad1bMax p with hlong | hshort
  · exact (length_varint_two hlong hp).le
  · exact (length_varint_one hshort).trans_le (by decide)

/-- Settles O51: what is sent is a frame, with the value last, and within the cap. -/
theorem sentDatagramIsAccepted : Obligations.SentDatagramIsAccepted := by
  intro m pad v hm
  have hle := length_dgramBytes_le hm pad v
  have hcap : dgramCap m ≤ 1536 := Nat.min_le_right _ _
  refine ⟨?accepted, hle.trans hcap⟩
  obtain ⟨p, -, hbytes⟩ := dgramBytes_eq_frame m pad v
  rw [hbytes, length_frame] at hle
  have hp : p ≤ Config.pad2bMax := by
    rw [Config.pad2bMax]
    omega
  rw [hbytes]
  exact dgramBaton_frame (isFrame_varint hp) v

end Sys2Proof.Machine
end

section
/-! PROOFS. The invariant of the block's registers (spec/10_state.md, R134, R158, R221): block reset meets it, every step
keeps it, and from a state that meets it every command of a block that is not halted has a next state (R11, R270). -/

namespace Sys2Proof.Machine

/-! The invariant by its parts. -/

/-- The decoder registers agree with one another and with the receive stream `recv` (R36 to R38, R134). -/
structure DecoderRegs (d : Decoder) (recv : Option StreamId) : Prop where
  scratchLen_le : d.scratchLen ≤ 2
  undecided_iff : d.paddingExpected = none ↔ d.phase = .idle ∨ d.phase = .len
  idle_iff : d.phase = .idle ↔ recv = none
  idle_empty : d.phase = .idle → d.scratchLen = 0
  received_le : ∀ e ∈ d.paddingExpected, d.paddingReceived.toNat ≤ e.toNat
  received_lt : d.phase = .pad → ∀ e ∈ d.paddingExpected, d.paddingReceived.toNat < e.toNat

theorem decoderCoherent_iff (s : State) :
    DecoderCoherent s ↔ DecoderRegs s.dec s.session.activeRecv ∧
      (s.dec.phase = .done →
        (s.session.activeRecv.bind s.record).map (·.frameDone) = some true ∨ TableReleased s) :=
  ⟨fun ⟨h1, h2, h3, h4, h5, h6, h7⟩ => ⟨⟨h1, h2, h3, h4, h5, h6⟩, h7⟩,
    fun ⟨⟨h1, h2, h3, h4, h5, h6⟩, h7⟩ => ⟨h1, h2, h3, h4, h5, h6, h7⟩⟩

/-- What holds at every point inside a command of a session with control stream `c`, whatever `S.state` is, up to the
close, the fault or the reply that ends the command. -/
structure Working (c : StreamId) (s : State) : Prop where
  canonical : Canonical s
  dec : DecoderRegs s.dec s.session.activeRecv
  frame : s.dec.phase = .done → ∀ r ∈ s.session.activeRecv, (s.record r).map (·.frameDone) = some true
  enc : EncoderCoherent s
  role : s.session.role ≠ none
  turnsRequired : s.session.turnsRequired ≠ none
  ready : s.session.ready = true
  armed : s.dgram.ready = true → s.dgram.nextValue ≠ none
  controlStreamId : s.session.controlStreamId = some c
  control : (s.record c).map (·.finSent) = some false
  recv_ne : s.session.activeRecv ≠ some c
  send_ne : s.session.activeSend ≠ some c

/-- This side has not finished the stream it is sending (R158). -/
def QueuedOpen (s : State) : Prop := ∀ a ∈ s.session.activeSend, (s.record a).map (·.finSent) = some false

/-- `S.state` and `S.closed` of a session in progress between commands. -/
def SessionOpen (x : Session) : Prop :=
  (x.state = .ready ∨ x.state = .sent ∨ x.state = .done) ∧ x.closed = false

/-- The invariant of a block that is not halted, with a session in progress on control stream `c`. -/
structure LiveState (c : StreamId) (s : State) : Prop extends Working c s where
  fault : s.fault = none
  sessionOpen : SessionOpen s.session
  closeCode : s.session.closeCode = none
  recv_known : ∀ r ∈ s.session.activeRecv, s.record r ≠ none
  queued : QueuedOpen s
  half_read : s.dec.phase = .len →
    s.dec.scratchLen = 0 ∨ (s.dec.scratchLen = 1 ∧ (s.dec.scratch.read 0).map vlen = some 2)
  baton : s.session.firstBaton ≠ none ∨ s.session.activeSend ≠ none → s.session.batonOut ≠ none

/-- The second part of `SendCoherent`: a frame queued before the decoder has finished one is on a local unidirectional
stream. -/
def QueuedEarly (s : State) : Prop := ∀ a ∈ s.session.activeSend, s.dec.phase = .done ∨
  (s.record a).map (fun rec => (rec.bidi, rec.isLocal)) = some (false, true)

theorem SessionOpen.ne_idle {x : Session} (h : SessionOpen x) : x.state ≠ .idle := by
  rcases h.1 with h | h | h <;> simp [h]

theorem SessionOpen.ne_closed {x : Session} (h : SessionOpen x) : x.state ≠ .closed := by
  rcases h.1 with h | h | h <;> simp [h]

theorem SessionOpen.ne_protocolError {x : Session} (h : SessionOpen x) : x.state ≠ .protocolError := by
  rcases h.1 with h | h | h <;> simp [h]

/-- An option whose bound value is known has the value it is bound from. -/
theorem exists_of_bind_map_eq_some {α β γ : Type} {o : Option α} {f : α → Option β} {g : β → γ} {v : γ}
    (h : (o.bind f).map g = some v) : ∃ a, o = some a ∧ (f a).map g = some v := by
  cases o with
  | none => cases h
  | some a => exact ⟨a, rfl, h⟩

/-- The invariant in a live block. -/
theorem Coherent.liveState {s : State} (h : Coherent s) (hs : Live s) : ∃ c, LiveState c s := by
  obtain ⟨hcanon, hdec, henc, ⟨hclosed, hprotocol, -, hknown, harmed⟩, hlive⟩ := h
  obtain ⟨hcontrol, hcode, hrecv, hsend, hrecvKnown, hqueued, hhalf, hbaton⟩ := hlive hs
  obtain ⟨hregs, hframe⟩ := (decoderCoherent_iff s).1 hdec
  obtain ⟨c, hc, hcrec⟩ := exists_of_bind_map_eq_some hcontrol
  have hopen : s.session.state = .ready ∨ s.session.state = .sent ∨ s.session.state = .done := by
    have hin := hs.2
    revert hin hprotocol
    cases s.session.state <;> simp [inSession]
  have hne : s.session.state ≠ .closed := by rcases hopen with h | h | h <;> simp [h]
  have hidle : s.session.state ≠ .idle := by rcases hopen with h | h | h <;> simp [h]
  obtain ⟨hrole, hturns, -, hready⟩ := hknown hidle
  refine ⟨c, {
    canonical := hcanon
    dec := hregs
    frame := fun hdone r hr => ?_
    enc := henc
    role := hrole
    turnsRequired := hturns
    ready := hready
    armed := harmed
    controlStreamId := hc
    control := hcrec
    recv_ne := hc ▸ hrecv
    send_ne := hc ▸ hsend
    fault := hs.1
    sessionOpen := ⟨hopen, by simpa [hne] using hclosed⟩
    closeCode := hcode
    recv_known := hrecvKnown
    queued := hqueued
    half_read := hhalf
    baton := hbaton }⟩
  rcases hframe hdone with hdone | hreleased
  · rwa [hr] at hdone
  · exact absurd hreleased.1 hne

/-- The invariant of the decoder and session registers, where the session is not idle and no table was released. -/
theorem Working.decoderCoherent {c : StreamId} {s : State} (h : Working c s) : DecoderCoherent s := by
  refine (decoderCoherent_iff s).2 ⟨h.dec, fun hdone => .inl ?_⟩
  cases hr : s.session.activeRecv with
  | none => exact absurd (h.dec.idle_iff.2 hr) (by simp [hdone])
  | some r => exact h.frame hdone r hr

theorem Working.sessionCoherent {c : StreamId} {s : State} (h : Working c s)
    (hclosed : s.session.closed = true ↔ s.session.state = .closed) (hidle : s.session.state ≠ .idle)
    (hprotocol : s.session.state ≠ .protocolError) : SessionCoherent s :=
  ⟨hclosed, hprotocol, fun he => absurd he hidle,
    fun _ => ⟨h.role, h.turnsRequired, by simp [h.controlStreamId], h.ready⟩, h.armed⟩

theorem SessionOpen.inSession {x : Session} (h : SessionOpen x) : inSession x.state = true := by
  rcases h.1 with h | h | h <;> rw [h] <;> rfl

theorem LiveState.live {c : StreamId} {s : State} (h : LiveState c s) : Live s := ⟨h.fault, h.sessionOpen.inSession⟩

theorem LiveState.coherent {c : StreamId} {s : State} (h : LiveState c s) : Coherent s := by
  have hs := h.sessionOpen
  refine ⟨h.canonical, h.toWorking.decoderCoherent, h.enc,
    h.toWorking.sessionCoherent (by simp [hs.2, hs.ne_closed]) hs.ne_idle hs.ne_protocolError, fun _ =>
    ⟨?control, h.closeCode, ?recv, ?send, h.recv_known, h.queued, h.half_read, h.baton⟩⟩
  case control => rw [h.controlStreamId]; exact h.control
  case recv => rw [h.controlStreamId]; exact h.recv_ne
  case send => rw [h.controlStreamId]; exact h.send_ne

/-! Writing `S.state`, the log, or a record. -/

theorem Working.withState {c : StreamId} {s : State} (h : Working c s) (state : SessionState) :
    Working c (s.onSession fun x => { x with state := state }) := { h with }

theorem Working.emit {c : StreamId} {s : State} (h : Working c s) (e : Event) : Working c (s.emit e) := { h with }

theorem State.map_record_putRecord {β : Type} {s : State} {sid x : StreamId} {rec : StreamRecord}
    {f : StreamRecord → β} {v : β} (h : (s.record x).map f = some v) (hsid : x = sid → f rec = v) :
    ((s.putRecord sid rec).record x).map f = some v := by
  rw [State.record_putRecord]
  by_cases hx : x = sid
  · rw [if_pos hx, Option.map_some, hsid hx]
  · rwa [if_neg hx]

/-- A record of another stream than the control stream may be written, as long as a finished frame stays finished. -/
theorem Working.putRecord {c sid : StreamId} {s : State} (h : Working c s) (hc : sid ≠ c) {rec : StreamRecord}
    (hframe : s.session.activeRecv = some sid → s.dec.phase = .done → rec.frameDone = true) :
    Working c (s.putRecord sid rec) :=
  { h with
    canonical := h.canonical.putRecord sid rec
    frame := fun hdone r hr =>
      State.map_record_putRecord (h.frame hdone r hr) fun hx => hframe (hx ▸ hr) hdone
    control := State.map_record_putRecord h.control fun hx => absurd hx.symm hc }

theorem QueuedOpen.putRecord {s : State} (h : QueuedOpen s) {sid : StreamId} {rec : StreamRecord}
    (hsend : s.session.activeSend = some sid → rec.finSent = false) : QueuedOpen (s.putRecord sid rec) :=
  fun a ha => State.map_record_putRecord (h a ha) fun hx => hsend (hx ▸ ha)

theorem LiveState.putRecord {c sid : StreamId} {s : State} (h : LiveState c s) (hc : sid ≠ c) {rec : StreamRecord}
    (hframe : s.session.activeRecv = some sid → s.dec.phase = .done → rec.frameDone = true)
    (hsend : s.session.activeSend = some sid → rec.finSent = false) : LiveState c (s.putRecord sid rec) :=
  { h with
    toWorking := h.toWorking.putRecord hc hframe
    queued := h.queued.putRecord hsend
    recv_known := fun r hr => by
      rw [State.record_putRecord]
      split
      · exact Option.some_ne_none _
      · exact h.recv_known r hr }

/-! How a command ends: with a next state that meets the invariant, where the transport kept its contract (`fresh`), and
R158's last clause with it, where that held before (`send`). -/

/-- The result is a next state that meets `P`. -/
def Answers (P : State → Prop) (r : Result) : Prop := ∃ t, r = .next t ∧ P t

/-- The invariant under the premises `fresh`, and R158's last clause under `send` too. -/
def Settled (fresh send : Prop) (t : State) : Prop := fresh → Coherent t ∧ (send → SendCoherent t)

theorem Answers.next {P : State → Prop} {t : State} (h : P t) : Answers P (.next t) := ⟨t, rfl, h⟩

theorem LiveState.sendCoherent {c : StreamId} {s : State} (h : LiveState c s) (he : QueuedEarly s) : SendCoherent s :=
  ⟨fun a ha => .inl (h.queued a ha), fun _ => he⟩

/-- The end of a command that leaves the session in progress: only the reply is written after it. -/
theorem LiveState.settled {fresh send : Prop} {c : StreamId} {s : State} (h : LiveState c s)
    (he : send → QueuedEarly s) (o : OutcomeCode) (bytes : List Byte) (fin : Bool) :
    Settled fresh send (s.replied o bytes fin) :=
  fun _ => ⟨h.coherent, fun hsend => h.sendCoherent (he hsend)⟩

/-- The end of a command by a model fault. -/
theorem Working.raiseFault {fresh send : Prop} {c : StreamId} {s : State} (h : Working c s)
    (ho : SessionOpen s.session) (hq : QueuedOpen s) (kind : ModelFault) :
    Answers (Settled fresh send) (raiseFault kind s) := by
  have hhalted : ¬ Live { s with fault := some kind, reply := none } := fun hlive => by cases hlive.1
  exact .next fun _ => ⟨⟨h.canonical, h.decoderCoherent, h.enc,
    h.sessionCoherent (by simp [ho.2, ho.ne_closed]) ho.ne_idle ho.ne_protocolError, fun hlive => absurd hlive hhalted⟩,
    fun _ => ⟨fun a ha => .inl (hq a ha), fun hlive => absurd hlive hhalted⟩⟩

theorem State.record_closeOn_ne (s : State) {c x : StreamId} (h : x ≠ c) (rec : StreamRecord) (code : CloseCode) :
    (s.closeOn c rec code).record x = s.record x := by
  simp only [State.record, State.closeOn_table]
  split
  · rfl
  · exact StreamTable.find_put_ne _ _ h

/-- The close procedure ends a session in a state that meets the invariant. -/
theorem Working.closeOn_coherent {c : StreamId} {s : State} (h : Working c s) (rec : StreamRecord) (code : CloseCode) :
    Coherent (s.closeOn c rec code) := by
  have hclosed : ¬ Live (s.closeOn c rec code) := fun hlive => by
    have hin := hlive.2
    simp [inSession] at hin
  refine ⟨h.canonical.closeOn c rec code, (decoderCoherent_iff _).2 ⟨?regs, fun hdone => .inl ?frame⟩, ?enc, ?session,
    fun hlive => absurd hlive hclosed⟩
  case regs => simpa using h.dec
  case frame =>
    have hdone : s.dec.phase = .done := by simpa using hdone
    rw [State.closeOn_session]
    cases hr : s.session.activeRecv with
    | none => exact absurd (h.dec.idle_iff.2 hr) (by simp [hdone])
    | some r =>
      have hne : r ≠ c := fun he => h.recv_ne (he ▸ hr)
      rw [Option.bind_some, State.record_closeOn_ne s hne]
      exact h.frame hdone r hr
  case enc => simpa [EncoderCoherent] using h.enc
  case session =>
    have harmed := h.armed
    simpa [SessionCoherent, h.role, h.turnsRequired, h.controlStreamId, h.ready] using harmed

theorem Working.closeOn_sendCoherent {c : StreamId} {s : State} (h : Working c s) (hq : QueuedOpen s)
    (rec : StreamRecord) (code : CloseCode) : SendCoherent (s.closeOn c rec code) := by
  refine ⟨fun a ha => .inl ?_, fun hlive => ?_⟩
  · rw [State.closeOn_session] at ha
    have hne : a ≠ c := fun he => h.send_ne (he ▸ ha)
    rw [State.record_closeOn_ne s hne]
    exact hq a ha
  · have hin := hlive.2
    simp [inSession] at hin

/-- Running the close procedure: the control stream has a record, and the state it leaves meets the invariant. -/
theorem Working.closeThen {fresh send : Prop} {P : State → Prop} {c : StreamId} {s : State} (h : Working c s)
    (hq : send → QueuedOpen s) (code : CloseCode) {k : State → Result}
    (hk : ∀ rec, Settled fresh send (s.closeOn c rec code) → Answers P (k (s.closeOn c rec code))) :
    Answers P (closeThen code s k) := by
  obtain ⟨rec, hrec, -⟩ := Option.map_eq_some_iff.1 h.control
  rw [Machine.closeThen, h.controlStreamId, needed_some, withRecord_some hrec]
  exact hk rec fun _ => ⟨h.closeOn_coherent rec code, fun hsend => h.closeOn_sendCoherent (hq hsend) rec code⟩

/-- The end of a command by a close. -/
theorem Working.closeSession {fresh send : Prop} {c : StreamId} {s : State} (h : Working c s)
    (hq : send → QueuedOpen s) (code : CloseCode) (o : OutcomeCode) :
    Answers (Settled fresh send) (closeSession code o s) :=
  h.closeThen hq code fun _ hsettled => .next hsettled

/-! The dispatcher (R200 to R207). -/

theorem encoderReset_coherent {s : State} (h : s.enc = .reset) : EncoderCoherent s := by
  rw [EncoderCoherent, h]
  exact ⟨by decide, fun _ => ⟨rfl, rfl⟩, fun p hp => by cases hp⟩

theorem armStream_answers (sid : StreamId) (s : State) : Answers (fun _ => True) (armStream sid s) := by
  rw [armStream]
  split
  · exact .next trivial
  · exact .next trivial

/-- Arming a stream that this side has not finished. -/
theorem LiveState.armStream {fresh send : Prop} {c sid : StreamId} {s : State} (h : LiveState c s)
    (hbaton : s.session.batonOut ≠ none) (hc : sid ≠ c) (hopen : (s.record sid).map (·.finSent) = some false)
    (hearly : s.dec.phase = .done ∨ (s.record sid).map (fun rec => (rec.bidi, rec.isLocal)) = some (false, true)) :
    Answers (Settled fresh send) (armStream sid s) := by
  rw [Machine.armStream]
  cases addCounter s.session.turnCount 1 with
  | none => exact h.raiseFault h.sessionOpen h.queued _
  | some turns =>
    have harmed : LiveState c ((s.onSession fun x => { x with turnCount := turns, activeSend := some sid }).onEnc
        fun _ => .reset) :=
      { h with
        enc := encoderReset_coherent rfl
        send_ne := fun he => hc (Option.some.inj he)
        queued := by rintro a ⟨⟩; exact hopen
        baton := fun _ => hbaton }
    refine .next fun _ => ⟨harmed.coherent, fun _ => harmed.sendCoherent ?_⟩
    rintro a ⟨⟩
    exact hearly

/-- A dispatch to a new stream: the answer to the open is not in the table. -/
theorem LiveState.openAndArm {fresh send : Prop} {c : StreamId} {s : State} (h : LiveState c s) (bidi : Bool)
    (hbaton : s.session.batonOut ≠ none) (hfresh : fresh → ∀ a ∈ s.openAnswer, s.record a = none)
    (hearly : s.dec.phase = .done ∨ bidi = false) : Answers (Settled fresh send) (openAndArm bidi s) := by
  rw [Machine.openAndArm]
  cases ha : s.openAnswer with
  | none => exact (h.toWorking.emit _).closeSession (fun _ => h.queued) _ _
  | some a =>
    simp only [h.controlStreamId, needed_some]
    by_cases hf : fresh
    · have hnew := hfresh hf a ha
      have hac : a ≠ c := by
        rintro rfl
        have hcontrol := h.control
        simp [hnew] at hcontrol
      have hknown : ∀ r ∈ s.session.activeRecv, r ≠ a := fun r hr he => h.recv_known r hr (he ▸ hnew)
      have hqueued : ∀ r ∈ s.session.activeSend, r ≠ a := by
        rintro r hr rfl
        have hopen := h.queued r hr
        simp [hnew] at hopen
      have hheaded : LiveState c ((s.emit (openEvent bidi (some a))).headStream bidi a c) :=
        { h.putRecord hac (rec := newRecord bidi true) (fun hr => absurd rfl (hknown a hr))
            (fun hs => absurd rfl (hqueued a hs)) with }
      refine hheaded.armStream hbaton hac ?_ (hearly.imp_right ?_)
      · exact congrArg _ (State.record_putRecord_same s a (newRecord bidi true))
      · rintro rfl
        exact congrArg _ (State.record_putRecord_same s a (newRecord false true))
    · obtain ⟨t, ht, -⟩ := armStream_answers a ((s.emit (openEvent bidi (some a))).headStream bidi a c)
      exact ⟨t, ht, fun hf' => absurd hf' hf⟩

/-- A dispatch for an inbound stream whose frame is done. -/
theorem LiveState.dispatchTurn {fresh send : Prop} {c r : StreamId} {s : State} (h : LiveState c s)
    (hrecv : s.session.activeRecv = some r) (hdone : s.dec.phase = .done) (hbaton : s.session.batonOut ≠ none)
    (hfresh : fresh → ∀ a ∈ s.openAnswer, s.record a = none) :
    Answers (Settled fresh send) (dispatchTurn (some r) s) := by
  by_cases hsend : s.session.activeSend = none
  case neg =>
    rw [dispatchTurn_overlap hsend]
    exact h.raiseFault h.sessionOpen h.queued _
  case pos =>
    obtain ⟨rec, hrec⟩ := Option.ne_none_iff_exists'.1 (h.recv_known r hrecv)
    rw [dispatchTurn_inbound hsend hrec, dispatchInbound]
    split
    · exact h.openAndArm false hbaton hfresh (.inl hdone)
    · exact h.openAndArm true hbaton hfresh (.inl hdone)
    · rw [armSame]
      split
      · exact h.raiseFault h.sessionOpen h.queued _
      · rename_i hfin
        exact h.armStream hbaton (fun he => h.recv_ne (he ▸ hrecv)) (by simpa [hrec] using hfin) (.inl hdone)

/-! The turn check (R180 to R187). -/

/-- A session in progress while the bytes of a delivery on `sid` are processed: `sid` is the receive stream; under
`send`, a frame that is still queued is on a local unidirectional stream; under `fresh`, the answer to an open is not in
the table. -/
structure Receiving (fresh send : Prop) (c sid : StreamId) (s : State) : Prop extends LiveState c s where
  recv : s.session.activeRecv = some sid
  queued_uni : send → ∀ a ∈ s.session.activeSend,
    (s.record a).map (fun rec => (rec.bidi, rec.isLocal)) = some (false, true)
  open_fresh : fresh → ∀ a ∈ s.openAnswer, s.record a = none

/-- Step 1: the stream that is finished before the close is bidirectional, so no frame is queued on it. -/
theorem Receiving.zeroBaton {fresh send : Prop} {c r : StreamId} {s : State} {rec : StreamRecord}
    (h : Receiving fresh send c r s) (hrec : s.record r = some rec) :
    Answers (Settled fresh send) (zeroBaton r rec s) := by
  have hc : r ≠ c := fun he => h.recv_ne (he ▸ h.recv)
  rw [Machine.zeroBaton]
  by_cases howed : finOwed rec = true
  case neg =>
    rw [if_neg howed]
    exact (h.toWorking.withState .done).closeSession (fun _ => h.queued) _ _
  case pos =>
    have hworking : Working c (s.putRecord r { rec with finSent := true }) := by
      refine h.toWorking.putRecord hc fun hr hdone => ?_
      simpa [hrec] using h.frame hdone r hr
    have hqueued : send → QueuedOpen (s.putRecord r { rec with finSent := true }) := fun hsend => by
      refine h.queued.putRecord fun hs => ?_
      have huni := h.queued_uni hsend r hs
      simp_all [finOwed]
    rw [if_pos howed]
    exact ((hworking.emit (.finStream r)).withState .done).closeSession hqueued _ _

theorem nextState_sessionOpen (n turns : Counter) : nextState n turns = .sent ∨ nextState n turns = .done := by
  rw [nextState]
  split
  · exact .inr rfl
  · exact .inl rfl

/-- Step 4 arms the datagram with a value. -/
theorem LiveState.mirrorBaton {c : StreamId} {s : State} (h : LiveState c s) (b : Byte) (role : Role) :
    LiveState c (s.mirrorBaton b role) := by
  rw [State.mirrorBaton]
  split
  · exact { h with armed := fun _ => Option.some_ne_none b }
  · exact h

/-- Steps 3 to 5: the next baton is decided before the dispatch reads it. -/
theorem Receiving.acceptTurn {fresh send : Prop} {c r : StreamId} {s : State} (h : Receiving fresh send c r s)
    (hdone : s.dec.phase = .done) (b : Byte) : Answers (Settled fresh send) (acceptTurn b r s) := by
  rw [Machine.acceptTurn]
  cases addCounter s.session.turnCount 1 with
  | none => exact Working.raiseFault (s := s.noteFirst b) { h with } h.sessionOpen h.queued _
  | some turns =>
    obtain ⟨n, hn⟩ := Option.ne_none_iff_exists'.1 h.turnsRequired
    obtain ⟨role, hrole⟩ := Option.ne_none_iff_exists'.1 h.role
    have hstate := nextState_sessionOpen n turns
    have haccepted : LiveState c ((s.noteFirst b).onSession fun x =>
        { x with turnCount := turns, batonOut := some (nextBaton n turns b), state := nextState n turns }) :=
      { h with
        sessionOpen := ⟨.inr hstate, h.sessionOpen.2⟩
        baton := fun _ => Option.some_ne_none _ }
    simp only [hn, hrole, needed_some]
    refine (haccepted.mirrorBaton b role).dispatchTurn ?_ ?_ ?_ ?_
    · simpa using h.recv
    · simpa using hdone
    · simp
    · simpa using h.open_fresh

theorem Receiving.turnCheck {fresh send : Prop} {c r : StreamId} {s : State} (h : Receiving fresh send c r s)
    (hdone : s.dec.phase = .done) (hbaton : s.session.batonIn ≠ none) :
    Answers (Settled fresh send) (turnCheck s) := by
  obtain ⟨b, hb⟩ := Option.ne_none_iff_exists'.1 hbaton
  obtain ⟨rec, hrec⟩ := Option.ne_none_iff_exists'.1 (h.recv_known r h.recv)
  rw [Machine.turnCheck, hb, h.recv, needed_some, needed_some]
  split
  · rw [withRecord_some hrec]
    exact h.zeroBaton hrec
  · cases hfirst : s.session.firstBaton with
    | none => simpa only [sequenceCheck, hfirst] using h.acceptTurn hdone b
    | some first =>
      obtain ⟨prev, hprev⟩ := Option.ne_none_iff_exists'.1 (h.baton (.inl (by simp [hfirst])))
      by_cases hseq : b = add8 prev 1
      · rw [sequenceCheck_accepts r (.inr ⟨prev, hprev, hseq⟩)]
        exact h.acceptTurn hdone b
      · rw [sequenceCheck_violation r hfirst hprev hseq]
        exact (h.toWorking.withState .protocolError).closeSession (fun _ => h.queued) _ _

/-! The decoder registers, byte by byte (R123 to R128). -/

theorem DecoderRegs.storePrefix {d : Decoder} {recv : Option StreamId} (h : DecoderRegs d recv) (hp : d.phase = .len)
    (m : Memory) {n : Nat} (hn : n ≤ 2) : DecoderRegs (d.storePrefix m n) recv :=
  { h with
    scratchLen_le := hn
    idle_empty := fun hidle => absurd (hp.symm.trans hidle) (by decide) }

theorem Decoder.beginPadding_phase (d : Decoder) (e : PadLen) :
    (d.beginPadding e).phase = .baton ∧ e = 0 ∨ (d.beginPadding e).phase = .pad ∧ e ≠ 0 := by
  rw [Decoder.beginPadding]
  by_cases he : e = 0
  · exact .inl ⟨if_pos he, he⟩
  · exact .inr ⟨if_neg he, he⟩

theorem DecoderRegs.beginPadding {d : Decoder} {recv : Option StreamId} (h : DecoderRegs d recv) (hp : d.phase = .len)
    (e : PadLen) : DecoderRegs (d.beginPadding e) recv := by
  have hrecv : recv ≠ none := fun he => absurd (hp.symm.trans (h.idle_iff.2 he)) (by decide)
  have hphase := d.beginPadding_phase e
  have hlater : (d.beginPadding e).phase ≠ .idle ∧ (d.beginPadding e).phase ≠ .len := by
    rcases hphase with ⟨hp, -⟩ | ⟨hp, -⟩ <;> rw [hp] <;> decide
  refine ⟨h.scratchLen_le, ?_, ?_, fun hidle => absurd hidle hlater.1, ?_, ?_⟩
  · exact ⟨fun hnone => (by cases hnone), fun hor => absurd hor (not_or.2 hlater)⟩
  · exact ⟨fun hidle => absurd hidle hlater.1, fun hnone => absurd hnone hrecv⟩
  · rintro _ ⟨⟩
    exact Nat.zero_le _
  · rintro hpad _ ⟨⟩
    rcases hphase with ⟨hbaton, -⟩ | ⟨-, hne⟩
    · rw [hbaton] at hpad
      cases hpad
    · exact Nat.pos_of_ne_zero fun he => hne (BitVec.eq_of_toNat_eq he)

theorem DecoderRegs.countPadding {d : Decoder} {recv : Option StreamId} (h : DecoderRegs d recv) (hp : d.phase = .pad) :
    DecoderRegs d.countPadding recv ∧ (d.countPadding.phase = .baton ∨ d.countPadding.phase = .pad) := by
  have hsome : d.paddingExpected ≠ none := fun he => by
    rcases h.undecided_iff.1 he with hi | hi <;> simp [hp] at hi
  obtain ⟨e, he⟩ := Option.ne_none_iff_exists'.1 hsome
  have hlt := h.received_lt hp e he
  have hrecv : recv ≠ none := fun hn => absurd (hp.symm.trans (h.idle_iff.2 hn)) (by decide)
  have hcount : (BitVec.ofNat 14 (d.paddingReceived.toNat + 1)).toNat = d.paddingReceived.toNat + 1 := by
    rw [BitVec.toNat_ofNat, Nat.mod_eq_of_lt (by omega)]
  rw [Decoder.countPadding_eq hp he hlt]
  have hphase : (d.afterPadding e 1).phase = .baton ∨
      (d.afterPadding e 1).phase = .pad ∧ d.paddingReceived.toNat + 1 ≠ e.toNat := by
    rw [Decoder.afterPadding]
    by_cases hlast : d.paddingReceived.toNat + 1 = e.toNat
    · exact .inl (if_pos hlast)
    · exact .inr ⟨if_neg hlast, hlast⟩
  have hlater : (d.afterPadding e 1).phase ≠ .idle ∧ (d.afterPadding e 1).phase ≠ .len := by
    rcases hphase with hp | ⟨hp, -⟩ <;> rw [hp] <;> decide
  refine ⟨⟨h.scratchLen_le, ?_, ?_, fun hidle => absurd hidle hlater.1, ?_, ?_⟩, hphase.imp_right (·.1)⟩
  · exact ⟨fun hnone => absurd hnone hsome, fun hor => absurd hor (not_or.2 hlater)⟩
  · exact ⟨fun hidle => absurd hidle hlater.1, fun hnone => absurd hnone hrecv⟩
  · intro e' he'
    obtain rfl : e = e' := Option.some.inj (he.symm.trans he')
    exact hcount.trans_le hlt
  · intro hpad e' he'
    obtain rfl : e = e' := Option.some.inj (he.symm.trans he')
    rcases hphase with hbaton | ⟨-, hne⟩
    · rw [hbaton] at hpad
      cases hpad
    · exact hcount.trans_lt (lt_of_le_of_ne hlt hne)

/-! Bytes of the receive stream (R124 to R129). -/

/-- What processing bytes of stream `sid` answers inside the invariant: it goes on receiving, with a baton where the frame
is completed; or a violation from which the session can be closed; and it is never stuck. -/
def ByteRun.Sound (fresh send : Prop) (c sid : StreamId) : ByteRun → Prop
  | .ok t completed =>
    Receiving fresh send c sid t ∧ (completed = true → t.dec.phase = .done ∧ t.session.batonIn ≠ none)
  | .violation t => Working c t ∧ QueuedOpen t
  | .stuck _ => False

section
variable {fresh send : Prop} {c sid : StreamId} {s : State}

/-- The receive stream's record may be written, keeping its direction, its origin and what this side has finished. -/
theorem Receiving.putRecord (h : Receiving fresh send c sid s) {rec rec' : StreamRecord}
    (hrec : s.record sid = some rec) (hdone : rec.frameDone = true → rec'.frameDone = true)
    (hfin : rec'.finSent = rec.finSent) (hattrs : (rec'.bidi, rec'.isLocal) = (rec.bidi, rec.isLocal)) :
    Receiving fresh send c sid (s.putRecord sid rec') := by
  have hc : sid ≠ c := fun he => h.recv_ne (he ▸ h.recv)
  have hlive : LiveState c (s.putRecord sid rec') := by
    refine h.toLiveState.putRecord hc (fun hr hp => hdone ?_) (fun hs => ?_)
    · simpa [hrec] using h.frame hp sid hr
    · simpa [hrec, hfin] using h.queued sid hs
  refine { hlive with recv := h.recv, queued_uni := fun hsend a ha => ?_, open_fresh := fun hf a ha => ?_ }
  · refine State.map_record_putRecord (h.queued_uni hsend a ha) fun hx => hattrs.trans ?_
    have huni := h.queued_uni hsend a ha
    simpa [hx, hrec] using huni
  · have hnew := h.open_fresh hf a ha
    have hne : a ≠ sid := by
      rintro rfl
      simp [hrec] at hnew
    rwa [State.record_putRecord_ne s _ hne]

/-- The decoder registers may be written, short of the end of the frame. -/
theorem Receiving.onDec (h : Receiving fresh send c sid s) {f : Decoder → Decoder}
    (hregs : DecoderRegs (f s.dec) s.session.activeRecv) (hwf : (f s.dec).scratch.wf) (hp : (f s.dec).phase ≠ .done)
    (hhalf : (f s.dec).phase = .len →
      (f s.dec).scratchLen = 0 ∨ ((f s.dec).scratchLen = 1 ∧ ((f s.dec).scratch.read 0).map vlen = some 2)) :
    Receiving fresh send c sid (s.onDec f) :=
  { h with
    canonical := ⟨h.canonical.1, hwf⟩
    dec := hregs
    frame := fun hdone => absurd hdone hp
    half_read := hhalf }

theorem prefixStored_tooLong {b0 : Byte} (h0 : s.dec.scratch.read 0 = some b0) (hv : 2 < vlen b0) :
    prefixStored s = .violation s := by simp only [prefixStored, h0, if_pos hv]

/-- Inside the invariant a byte of the padding length has its place in the scratch, the bytes before it are there, and a
second byte is one that the first announced. -/
theorem LiveState.exists_storePrefix (h : LiveState c s) (hp : s.dec.phase = .len) (b : Byte) :
    ∃ m b0 bs, s.dec.scratch.write s.dec.scratchLen b = some m ∧ m.wf ∧ m.read 0 = some b0 ∧
      scratchPrefix m (s.dec.scratchLen + 1) = some bs ∧
      (s.dec.scratchLen = 0 ∨ s.dec.scratchLen = 1 ∧ vlen b0 = 2) := by
  rcases h.half_read hp with h0 | ⟨h1, hread⟩
  case inl =>
    obtain ⟨m, hw⟩ : ∃ m, s.dec.scratch.write 0 b = some m := ⟨_, Memory.write_of_lt (by decide) b⟩
    obtain ⟨-, hb, -, hwf⟩ := Memory.write_spec hw
    exact ⟨m, b, [b], by rwa [h0], hwf h.canonical.2, hb, by simp [h0, scratchPrefix, hb], .inl h0⟩
  case inr =>
    obtain ⟨b0, hb0, hv⟩ := Option.map_eq_some_iff.1 hread
    obtain ⟨m, hw⟩ : ∃ m, s.dec.scratch.write 1 b = some m := ⟨_, Memory.write_of_lt (by decide) b⟩
    obtain ⟨-, hb, hkept, hwf⟩ := Memory.write_spec hw
    have hm0 : m.read 0 = some b0 := (hkept 0 (by decide)).trans hb0
    exact ⟨m, b0, [b0, b], by rwa [h1], hwf h.canonical.2, hm0, by simp [h1, scratchPrefix, hm0, hb], .inr ⟨h1, hv⟩⟩

/-- Phase D_LEN: too long a padding length is a violation, a complete one begins the padding, and half of one waits. -/
theorem Receiving.decodeByte_len (h : Receiving fresh send c sid s) (hp : s.dec.phase = .len) (b : Byte) :
    (decodeByte sid b s).Sound fresh send c sid := by
  obtain ⟨m, b0, bs, hw, hwf, h0, hbs, hhalf⟩ := h.exists_storePrefix hp b
  have hle : s.dec.scratchLen + 1 ≤ 2 := by omega
  have hregs := h.dec.storePrefix hp m hle
  rw [Machine.decodeByte_len hp hw]
  rcases Nat.lt_or_ge 2 (vlen b0) with hv | hv
  case inl =>
    rw [prefixStored_tooLong (s := s.onDec fun d => d.storePrefix m (s.dec.scratchLen + 1)) h0 hv]
    refine ⟨{ h with canonical := ⟨h.canonical.1, hwf⟩, dec := hregs, frame := fun hdone => ?_ }, h.queued⟩
    exact absurd (hp.symm.trans hdone) (by decide)
  case inr =>
    by_cases hlen : s.dec.scratchLen + 1 = vlen b0
    · rw [prefixStored_complete (s := s.onDec fun d => d.storePrefix m (s.dec.scratchLen + 1)) h0 hv hlen (hlen ▸ hbs)]
      have hphase := (s.dec.storePrefix m (s.dec.scratchLen + 1)).beginPadding_phase (BitVec.ofNat 14 (varintValue bs))
      refine ⟨h.onDec (f := fun d => (d.storePrefix m (s.dec.scratchLen + 1)).beginPadding
        (BitVec.ofNat 14 (varintValue bs))) (hregs.beginPadding hp _) hwf ?_ ?_, fun hc => by cases hc⟩
      · rcases hphase with ⟨hp, -⟩ | ⟨hp, -⟩ <;> rw [hp] <;> decide
      · intro hl
        rcases hphase with ⟨hp, -⟩ | ⟨hp, -⟩ <;> cases hp.symm.trans hl
    · rw [prefixStored_waits (s := s.onDec fun d => d.storePrefix m (s.dec.scratchLen + 1)) h0 hv hlen]
      have hpos := vlen_pos b0
      have htwo : s.dec.scratchLen + 1 = 1 ∧ vlen b0 = 2 := by omega
      refine ⟨h.onDec hregs hwf (fun hd => absurd (hp.symm.trans hd) (by decide)) fun _ => .inr ⟨htwo.1, ?_⟩,
        fun hc => by cases hc⟩
      exact (congrArg (Option.map vlen) h0).trans (congrArg some htwo.2)

/-- Phase D_BATON: the byte is recorded, and the frame is done (R128). -/
theorem Receiving.decodeByte_baton (h : Receiving fresh send c sid s) (hp : s.dec.phase = .baton) (b : Byte) :
    (decodeByte sid b s).Sound fresh send c sid := by
  obtain ⟨rec, hrec⟩ := Option.ne_none_iff_exists'.1 (h.recv_known sid h.recv)
  have hput := h.putRecord (rec' := { rec with frameDone := true }) hrec (fun _ => rfl) rfl rfl
  have hnot : s.dec.phase ≠ .idle ∧ s.dec.phase ≠ .len := by rw [hp]; decide
  rw [Machine.decodeByte_baton hp hrec]
  refine ⟨{ hput with dec := ?regs, frame := fun _ r hr => ?frame, half_read := fun hl => (by cases hl) },
    fun _ => ⟨rfl, Option.some_ne_none b⟩⟩
  case regs =>
    exact { h.dec with
      undecided_iff := ⟨fun hn => absurd (h.dec.undecided_iff.1 hn) (not_or.2 hnot), fun hor => by simp at hor⟩
      idle_iff := ⟨fun hi => (by cases hi), fun hn => absurd (h.dec.idle_iff.2 hn) hnot.1⟩
      idle_empty := fun hi => (by cases hi)
      received_lt := fun hpad => (by cases hpad) }
  case frame =>
    obtain rfl : sid = r := Option.some.inj (h.recv.symm.trans hr)
    exact congrArg _ (State.record_putRecord_same s sid { rec with frameDone := true })

theorem Receiving.decodeByte (h : Receiving fresh send c sid s) (b : Byte) :
    (decodeByte sid b s).Sound fresh send c sid := by
  cases hp : s.dec.phase with
  | idle => cases h.recv.symm.trans (h.dec.idle_iff.1 hp)
  | len => exact h.decodeByte_len hp b
  | pad =>
    obtain ⟨hregs, hphase⟩ := h.dec.countPadding hp
    rw [decodeByte_pad hp]
    refine ⟨h.onDec hregs h.canonical.2 ?_ fun hl => ?_, fun hc => by cases hc⟩
    · rcases hphase with hp | hp <;> rw [hp] <;> decide
    · rcases hphase with hp | hp <;> cases hp.symm.trans hl
  | baton => exact h.decodeByte_baton hp b
  | done =>
    simp only [Machine.decodeByte, hp]
    exact ⟨h.toWorking, h.queued⟩

theorem Receiving.decodeBytes {bytes : List Byte} {completed : Bool} (h : Receiving fresh send c sid s)
    (hc : completed = true → s.dec.phase = .done ∧ s.session.batonIn ≠ none) :
    (decodeBytes sid bytes completed s).Sound fresh send c sid := by
  induction bytes generalizing completed s with
  | nil => exact ⟨h, hc⟩
  | cons b rest ih =>
    by_cases hdone : s.dec.phase = .done
    · rw [decodeBytes_done hdone (List.cons_ne_nil b rest)]
      exact ⟨h.toWorking, h.queued⟩
    · obtain rfl : completed = false := by
        cases completed with
        | false => rfl
        | true => exact absurd (hc rfl).1 hdone
      have hbyte := h.decodeByte b
      rw [decodeBytes_cons]
      cases hb : Machine.decodeByte sid b s with
      | ok t now =>
        rw [hb] at hbyte
        exact ih hbyte.1 (by simpa using hbyte.2)
      | violation t => rwa [hb] at hbyte
      | stuck f => rwa [hb] at hbyte

/-! A delivery (R121 to R131). -/

theorem Receiving.queuedEarly (h : Receiving fresh send c sid s) (hsend : send) : QueuedEarly s :=
  fun a ha => .inr (h.queued_uni hsend a ha)

theorem Receiving.finishDelivery (h : Receiving fresh send c sid s) {completed : Bool}
    (hc : completed = true → s.dec.phase = .done ∧ s.session.batonIn ≠ none) :
    Answers (Settled fresh send) (finishDelivery completed s) := by
  cases completed with
  | false => exact .next (h.settled h.queuedEarly _ _ _)
  | true => exact h.turnCheck (hc rfl).1 (hc rfl).2

theorem Receiving.endOfRange (h : Receiving fresh send c sid s) {completed : Bool}
    (hc : completed = true → s.dec.phase = .done ∧ s.session.batonIn ≠ none) (fin : Bool) :
    Answers (Settled fresh send) (endOfRange sid fin completed s) := by
  obtain ⟨rec, hrec⟩ := Option.ne_none_iff_exists'.1 (h.recv_known sid h.recv)
  rw [Machine.endOfRange]
  split
  · exact h.finishDelivery hc
  · split
    · exact h.closeSession (fun _ => h.queued) _ _
    · rw [recordFin, withRecord_some hrec]
      exact (h.putRecord (rec' := { rec with finReceived := true }) hrec id rfl rfl).finishDelivery hc

/-- Fixing the receive stream starts the reception (R123). -/
theorem LiveState.associate (h : LiveState c s) (hc : sid ≠ c) (hknown : s.record sid ≠ none)
    (hp : s.dec.phase ≠ .done) (hturn : s.dec.phase = .idle ∨ s.session.activeRecv = some sid)
    (he : send → QueuedEarly s) (hfresh : fresh → ∀ a ∈ s.openAnswer, s.record a = none) :
    Receiving fresh send c sid (s.associate sid) := by
  have huni (hsend : send) : ∀ a ∈ s.session.activeSend,
      (s.record a).map (fun rec => (rec.bidi, rec.isLocal)) = some (false, true) :=
    fun a ha => (he hsend a ha).resolve_left hp
  by_cases hidle : s.dec.phase = .idle
  case neg =>
    rw [State.associate_of_not_idle hidle]
    exact { h with recv := hturn.resolve_left hidle, queued_uni := huni, open_fresh := hfresh }
  case pos =>
    have hempty := h.dec.idle_empty hidle
    have hundecided := h.dec.undecided_iff.2 (.inl hidle)
    have hne : some sid ≠ some c := fun he => hc (Option.some.inj he)
    rw [State.associate_of_idle hidle]
    exact { h with
      dec := {
        scratchLen_le := h.dec.scratchLen_le
        undecided_iff := ⟨fun _ => .inr rfl, fun _ => hundecided⟩
        idle_iff := ⟨fun hi => (by cases hi), fun hn => (by cases hn)⟩
        idle_empty := fun _ => hempty
        received_le := h.dec.received_le
        received_lt := fun hpad => (by cases hpad) }
      frame := fun hdone => (by cases hdone)
      recv_ne := hne
      recv_known := by rintro r ⟨⟩; exact hknown
      half_read := fun _ => .inl hempty
      recv := rfl
      queued_uni := huni
      open_fresh := hfresh }

theorem LiveState.byteRange (h : LiveState c s) (hc : sid ≠ c) (hknown : s.record sid ≠ none)
    (he : send → QueuedEarly s) (hfresh : fresh → ∀ a ∈ s.openAnswer, s.record a = none) (fin : Bool)
    {payload : List Byte} (hne : payload ≠ []) :
    Answers (Settled fresh send) (byteRange sid fin payload s) := by
  obtain ⟨rec, hrec⟩ := Option.ne_none_iff_exists'.1 hknown
  have hclose := h.closeSession (fresh := fresh) (send := send) (fun _ => h.queued) .malformed .errFraming
  by_cases hfresh' : rec.frameDone = true
  · rw [Machine.byteRange, withRecord_some hrec, if_pos hfresh']
    exact hclose
  · by_cases hturn : s.dec.phase = .idle ∨ s.session.activeRecv = some sid
    · rw [byteRange_decodes hrec (by simpa using hfresh') hturn]
      by_cases hdone : s.dec.phase = .done
      · rw [State.associate_of_not_idle (by simp [hdone]), decodeBytes_done hdone hne]
        exact hclose
      · have hrun := (h.associate hc hknown hdone hturn he hfresh).decodeBytes (bytes := payload) (completed := false)
          fun hf => by cases hf
        cases hb : Machine.decodeBytes sid payload false (s.associate sid) with
        | ok t completed =>
          rw [hb] at hrun
          exact hrun.1.endOfRange hrun.2 fin
        | violation t =>
          rw [hb] at hrun
          exact hrun.1.closeSession (fun _ => hrun.2) _ _
        | stuck f =>
          rw [hb] at hrun
          exact hrun.elim
    · rw [Machine.byteRange, withRecord_some hrec, if_neg hfresh', if_pos (not_or.1 hturn)]
      exact hclose

theorem LiveState.emptyRange (h : LiveState c s) (hc : sid ≠ c) (hknown : s.record sid ≠ none)
    (he : send → QueuedEarly s) (fin : Bool) : Answers (Settled fresh send) (emptyRange sid fin s) := by
  obtain ⟨rec, hrec⟩ := Option.ne_none_iff_exists'.1 hknown
  rw [Machine.emptyRange]
  split
  · exact .next (h.settled he _ _ _)
  · split
    · exact h.closeSession (fun _ => h.queued) _ _
    · have hput : LiveState c (s.putRecord sid { rec with finReceived := true }) :=
        h.putRecord hc (fun hr hp => by simpa [hrec] using h.frame hp sid hr)
          (fun hs => by simpa [hrec] using h.queued sid hs)
      rw [recordFin, withRecord_some hrec]
      refine .next (hput.settled (fun hsend a ha => (he hsend a ha).imp_right fun huni => ?_) _ _ _)
      refine State.map_record_putRecord huni fun hx => ?_
      simpa [hx, hrec] using huni

theorem LiveState.receiveRange (h : LiveState c s) (hc : sid ≠ c) (hknown : s.record sid ≠ none)
    (he : send → QueuedEarly s) (hfresh : fresh → ∀ a ∈ s.openAnswer, s.record a = none) (fin : Bool)
    (payload : List Byte) : Answers (Settled fresh send) (receiveRange sid fin payload s) := by
  rw [Machine.receiveRange]
  cases addCounter s.session.streamBytesReceived payload.length with
  | none => exact h.raiseFault h.sessionOpen h.queued _
  | some total =>
    have hcounted : LiveState c (s.onSession fun x => { x with streamBytesReceived := total }) := { h with }
    by_cases hempty : payload = []
    · simp only [if_pos hempty]
      exact hcounted.emptyRange hc hknown he fin
    · simp only [if_neg hempty]
      exact hcounted.byteRange hc hknown he hfresh fin hempty

/-- Learning a stream keeps the invariant: what is received and what is sent was known before. -/
theorem LiveState.knowStream (h : LiveState c s) (hc : sid ≠ c) (he : send → QueuedEarly s) (bidi : Bool) :
    LiveState c (s.knowStream sid bidi) ∧ (send → QueuedEarly (s.knowStream sid bidi)) := by
  cases hr : s.record sid with
  | some rec =>
    rw [State.knowStream_of_known hr]
    exact ⟨h, he⟩
  | none =>
    have hrecv : s.session.activeRecv ≠ some sid := fun hs => h.recv_known sid hs hr
    have hsend : s.session.activeSend ≠ some sid := fun hs => by
      have hopen := h.queued sid hs
      simp [hr] at hopen
    rw [State.knowStream_of_unknown hr]
    refine ⟨h.putRecord hc (fun hs => absurd hs hrecv) (fun hs => absurd hs hsend), fun hs a ha => ?_⟩
    exact (he hs a ha).imp_right fun huni => State.map_record_putRecord huni fun hx => absurd (hx ▸ ha) hsend

theorem LiveState.execDeliverBytes (h : LiveState c s) (he : send → QueuedEarly s) {fin bidi isLocal : Bool}
    {payload : List Byte} (hp : payload.length < 2 ^ 16)
    (hfresh : fresh → OpenFresh (.deliverBytes sid fin bidi isLocal payload) s) :
    Answers (Settled fresh send) (exec (.deliverBytes sid fin bidi isLocal payload) s) := by
  have hs : Live s := h.live
  by_cases hduty : HostDutyBroken s sid isLocal
  · rw [exec_deliverBytes_refused hs hp hduty]
    exact .next (h.settled he _ _ _)
  · have hc : sid ≠ c := fun hx => hduty (.inl (hx ▸ h.controlStreamId))
    obtain ⟨hknow, heknow⟩ := h.knowStream hc he bidi
    rw [exec_deliverBytes_accepted hs hp hduty]
    refine hknow.receiveRange hc ?_ heknow (fun hf a ha => ?_) fin payload
    · rw [State.knowStream_record, if_pos rfl]
      exact Option.some_ne_none _
    · rw [State.knowStream_eq] at ha
      obtain ⟨hnew, hne⟩ := hfresh hf a ha
      rwa [State.knowStream_record, if_neg fun hx => hne (congrArg some hx.symm)]

/-! An offer of send space (R150 to R157). -/

theorem encoderCoherent_of {t : State} {p : PadLen} (hp : t.enc.paddingRequired = some p)
    (hprefix : t.enc.prefixSent = (varint p.toNat).length) (hpadding : t.enc.paddingSent.toNat ≤ p.toNat) :
    EncoderCoherent t := by
  refine ⟨hprefix.trans_le (length_varint_padLen_le p), fun hn => ?_, fun q hq => ?_⟩
  · rw [hp] at hn
    cases hn
  · obtain rfl : p = q := Option.some.inj (hp.symm.trans hq)
    exact ⟨hpadding, hprefix⟩

/-- Re-arming leaves the decoder registers idle (R132). -/
theorem decoderRegs_rearmed (d : Decoder) :
    DecoderRegs { d with phase := .idle, scratchLen := 0, paddingExpected := none, paddingReceived := 0 } none where
  scratchLen_le := Nat.zero_le 2
  undecided_iff := ⟨fun _ => .inl rfl, fun _ => rfl⟩
  idle_iff := ⟨fun _ => rfl, fun _ => rfl⟩
  idle_empty := fun _ => rfl
  received_le := fun e he => by cases he
  received_lt := fun hpad => by cases hpad

/-- The offer that completes the frame finishes the stream, which is not the control stream, and re-arms the decoder. -/
theorem LiveState.completeFrame (h : LiveState c s) (hsend : s.session.activeSend = some sid) (rec : StreamRecord) :
    LiveState c (s.completeFrame sid rec) := by
  have hc : sid ≠ c := fun hx => h.send_ne (hx ▸ hsend)
  have hstate : (if s.session.state = .done then SessionState.done else .sent) = .sent ∨
      (if s.session.state = .done then SessionState.done else .sent) = .done := by
    split
    · exact .inr rfl
    · exact .inl rfl
  exact { h with
    canonical := h.canonical.putRecord sid { rec with finSent := true }
    dec := decoderRegs_rearmed s.dec
    frame := fun hdone => (by cases hdone)
    control := State.map_record_putRecord h.control fun hx => absurd hx.symm hc
    recv_ne := fun hn => (by cases hn)
    send_ne := fun hn => (by cases hn)
    sessionOpen := ⟨.inr hstate, h.sessionOpen.2⟩
    recv_known := fun r hr => (by cases hr)
    queued := fun a ha => (by cases ha)
    half_read := fun hl => (by cases hl)
    baton := fun hor => h.baton (.inl (hor.resolve_right fun hn => hn rfl)) }

theorem LiveState.writeFrame (h : LiveState c s) (he : send → QueuedEarly s) {b : Byte} {m : Nat} (hm : 1 ≤ m)
    (hsend : s.session.activeSend = some sid) :
    Answers (Settled fresh send) (writeFrame sid (s.enc.paddingRequired.getD (choosePadding b m)) b m s) := by
  have hwithin := EncoderCoherent.within h.enc (choosePadding b m)
  have hwhole := EncoderCoherent.wholePrefix h.enc b hm
  generalize s.enc.paddingRequired.getD (choosePadding b m) = p at hwithin hwhole ⊢
  rcases Nat.lt_or_ge (s.enc.written + m) (frame p.toNat b).length with hlt | hend
  case inl =>
    have hshort := hlt
    rw [length_frame] at hshort
    obtain ⟨-, hle⟩ := hwithin.advance_partial hwhole hshort
    have hpart : LiveState c (s.onEnc fun _ => .afterBytes p (s.enc.written + m)) :=
      { h with enc := encoderCoherent_of rfl rfl (Encoder.afterBytes_written hle hshort).1 }
    rw [writeFrame_partial sid hwithin hwhole hlt]
    exact .next (hpart.settled he _ _ _)
  case inr =>
    obtain ⟨rec, hrec, -⟩ := Option.map_eq_some_iff.1 (h.queued sid hsend)
    have hwhole : LiveState c (s.onEnc fun _ =>
        { paddingRequired := some p, prefixSent := (varint p.toNat).length, paddingSent := p }) :=
      { h with enc := encoderCoherent_of rfl rfl (Nat.le_refl _) }
    rw [writeFrame_completes hwithin hrec hend]
    exact .next ((hwhole.completeFrame hsend rec).settled (fun _ a ha => by cases ha) _ _ _)

theorem LiveState.execRequestSend (h : LiveState c s) (he : send → QueuedEarly s) (m : BitVec 16) :
    Answers (Settled fresh send) (exec (.requestSend sid m) s) := by
  by_cases hnothing : s.session.activeSend ≠ some sid ∨ m = 0
  · rw [exec_requestSend_nothing h.live hnothing]
    exact .next (h.settled he _ _ _)
  · obtain ⟨hsend, hm⟩ := not_or.1 hnothing
    have hsend := not_not.1 hsend
    obtain ⟨b, hb⟩ := Option.ne_none_iff_exists'.1 (h.baton (.inr (by simp [hsend])))
    rw [exec_requestSend_queued h.live hsend hm hb]
    exact h.writeFrame he (Nat.pos_of_ne_zero fun hx => hm (BitVec.eq_of_toNat_eq hx)) hsend

/-! The commands that close (R222, R223). -/

theorem LiveState.execNotifyReset (h : LiveState c s) (sid : StreamId) :
    Answers (Settled fresh send) (exec (.notifyReset sid) s) := by
  obtain ⟨role, hrole⟩ := Option.ne_none_iff_exists'.1 h.role
  rw [exec_notifyReset_live h.live]
  refine h.closeThen (fresh := fresh) (send := send) (fun _ => h.queued) _ fun rec hsettled => ?_
  rw [State.closeOn_session, hrole, needed_some]
  cases role with
  | responder => exact .next hsettled
  | initiator => exact .next hsettled

theorem LiveState.execIdleTimeout (h : LiveState c s) : Answers (Settled fresh send) (exec .idleTimeout s) := by
  rw [exec_idleTimeout_live h.live]
  exact h.closeSession (fun _ => h.queued) _ _

/-! The datagram commands (R242, R244). -/

/-- The datagram registers may be written, as long as an armed block holds a value. -/
theorem LiveState.onDgram (h : LiveState c s) {f : Datagram → Datagram}
    (hf : (f s.dgram).ready = true → (f s.dgram).nextValue ≠ none) : LiveState c (s.onDgram f) := { h with armed := hf }

theorem LiveState.execDeliverDatagram (h : LiveState c s) (he : send → QueuedEarly s) {payload : List Byte}
    (hp : payload.length < 2 ^ 16) : Answers (Settled fresh send) (exec (.deliverDatagram payload) s) := by
  cases hbaton : dgramBaton payload with
  | none =>
    rw [exec_deliverDatagram_discarded h.live hp hbaton]
    exact .next (h.settled he _ _ _)
  | some v =>
    rw [exec_deliverDatagram_recorded h.live hp hbaton]
    simp only [countReceived]
    split
    · exact (h.onDgram h.armed).raiseFault h.sessionOpen h.queued _
    · split
      · exact ((h.onDgram h.armed).onDgram h.armed).raiseFault h.sessionOpen h.queued _
      · exact .next (((h.onDgram h.armed).onDgram h.armed).settled he _ _ _)

theorem LiveState.execRequestDatagram (h : LiveState c s) (he : send → QueuedEarly s) (m pad : BitVec 16) :
    Answers (Settled fresh send) (exec (.requestDatagram m pad) s) := by
  rw [exec_requestDatagram_live h.live]
  split
  · exact .next (h.settled he _ _ _)
  · rename_i hready
    have hready : s.dgram.ready = true := by
      by_contra hx
      simp [hx] at hready
    obtain ⟨v, hv⟩ := Option.ne_none_iff_exists'.1 (h.armed hready)
    have hdisarmed : LiveState c (s.onDgram fun g => { g with ready := false }) := h.onDgram fun hx => by cases hx
    rw [hv, needed_some]
    simp only [countSent]
    split
    · exact hdisarmed.raiseFault h.sessionOpen h.queued _
    · split
      · exact (hdisarmed.onDgram fun hx => by cases hx).raiseFault h.sessionOpen h.queued _
      · exact .next ((hdisarmed.onDgram fun hx => by cases hx).settled he _ _ _)

/-! Session creation and release (R170 to R174). -/

/-- A session just created meets the invariant: only the control stream is in the table. -/
theorem createSession_liveState (hf : s.fault = none) (role : Role) (sid : StreamId) (bidi isLocal : Bool)
    (batonOut : Option Byte) : LiveState sid (s.createSession role sid bidi isLocal batonOut) where
  canonical := (Canonical.clearRegisters s).putRecord sid (newRecord bidi isLocal)
  dec := {
    scratchLen_le := Nat.zero_le 2
    undecided_iff := ⟨fun _ => .inl rfl, fun _ => rfl⟩
    idle_iff := ⟨fun _ => rfl, fun _ => rfl⟩
    idle_empty := fun _ => rfl
    received_le := fun e he => (by cases he)
    received_lt := fun hpad => (by cases hpad) }
  frame := fun hdone => by cases hdone
  enc := encoderReset_coherent rfl
  role := Option.some_ne_none role
  turnsRequired := Option.some_ne_none _
  ready := rfl
  armed := fun hx => by cases hx
  controlStreamId := rfl
  control := congrArg _ (State.record_putRecord_same s.clearRegisters sid (newRecord bidi isLocal))
  recv_ne := fun hn => by cases hn
  send_ne := fun hn => by cases hn
  fault := hf
  sessionOpen := ⟨.inl rfl, rfl⟩
  closeCode := rfl
  recv_known := fun r hr => by cases hr
  queued := fun a ha => by cases ha
  half_read := fun hl => by cases hl
  baton := fun hor => hor.elim (fun hn => absurd rfl hn) fun hn => absurd rfl hn

/-- The transport's fresh stream is not the control stream just created. -/
theorem createSession_openFresh {i : Instr} {role : Role} {bidi isLocal : Bool} {batonOut : Option Byte}
    (hi : namedStream i = some sid) (hfresh : OpenFresh i s) :
    ∀ a ∈ (s.createSession role sid bidi isLocal batonOut).openAnswer,
      (s.createSession role sid bidi isLocal batonOut).record a = none := by
  intro a ha
  obtain ⟨-, hne⟩ := hfresh a ha
  have hx : a ≠ sid := fun hx => hne (hx ▸ hi)
  exact State.record_putRecord_ne s.clearRegisters (newRecord bidi isLocal) hx

theorem execAccept_settles {seed : Byte} (hf : s.fault = none) (hidle : s.session.state = .idle)
    (hseed : seedLegal seed = true) {bidi isLocal : Bool} (hfresh : fresh → OpenFresh (.accept sid bidi isLocal seed) s) :
    Answers (Settled fresh send) (exec (.accept sid bidi isLocal seed) s) := by
  rw [exec_accept_idle hf hidle hseed, dispatchTurn_start rfl]
  exact (createSession_liveState hf .responder sid bidi isLocal (some seed)).openAndArm false (Option.some_ne_none seed)
    (fun hx => createSession_openFresh rfl (hfresh hx)) (.inr rfl)

theorem execConnect_settles (hf : s.fault = none) (hidle : s.session.state = .idle) (bidi isLocal : Bool) :
    Answers (Settled fresh send) (exec (.connect sid bidi isLocal) s) := by
  rw [exec_connect_idle hf hidle]
  exact .next ((createSession_liveState hf .initiator sid bidi isLocal none).settled (fun _ a ha => by cases ha) _ _ _)

/-- The cleared registers are the ones of block reset (R174). -/
theorem clearRegisters_coherent (s : State) : Coherent s.clearRegisters ∧ SendCoherent s.clearRegisters := by
  have hidle : ¬ Live s.clearRegisters := fun hs => by cases hs.2
  refine ⟨⟨Canonical.clearRegisters s, (decoderCoherent_iff _).2 ⟨decoderRegs_rearmed .reset, fun hd => by cases hd⟩,
    encoderReset_coherent rfl, ⟨?_, ?_, fun _ => ⟨rfl, rfl, rfl, rfl, rfl⟩, fun hne => absurd rfl hne, ?_⟩,
    fun hs => absurd hs hidle⟩, fun a ha => (by cases ha), fun hs => absurd hs hidle⟩
  · exact ⟨fun hc => (by cases hc), fun hc => (by cases hc)⟩
  · exact fun hp => by cases hp
  · exact fun hr => by cases hr

/-- The table of an initiator's session is emptied, and R134 and R158 say nothing of its streams any more. -/
theorem releaseTable_coherent (h : Coherent s) (hs : s.session.state ≠ .idle)
    (hrole : s.session.role = some .initiator) :
    Coherent ({ s with table := [] }.markClosed) ∧ SendCoherent ({ s with table := [] }.markClosed) := by
  obtain ⟨⟨-, hscratch⟩, hdec, henc, ⟨-, -, -, hknown, harmed⟩, -⟩ := h
  have hclosed : ¬ Live ({ s with table := [] }.markClosed) := fun hl => by cases hl.2
  have hreleased : TableReleased ({ s with table := [] }.markClosed) := ⟨rfl, hrole, rfl⟩
  refine ⟨⟨⟨StreamTable.wf_nil, hscratch⟩, (decoderCoherent_iff _).2 ⟨((decoderCoherent_iff s).1 hdec).1,
    fun _ => .inr hreleased⟩, henc, ⟨?_, ?_, ?_, fun _ => hknown hs, harmed⟩, fun hl => absurd hl hclosed⟩,
    fun _ _ => .inr hreleased, fun hl => absurd hl hclosed⟩
  · exact ⟨fun _ => rfl, fun _ => rfl⟩
  · exact fun hp => by cases hp
  · exact fun hi => by cases hi

theorem execDeregister_settles (h : Coherent s) (hf : s.fault = none) (hs : s.session.state ≠ .idle) :
    Answers (Settled fresh send) (exec .deregister s) := by
  have hknown : s.session.role ≠ none := by
    obtain ⟨-, -, -, ⟨-, -, -, hknown, -⟩, -⟩ := h
    exact (hknown hs).1
  obtain ⟨role, hrole⟩ := Option.ne_none_iff_exists'.1 hknown
  rw [exec_deregister_session hf hs, hrole, needed_some]
  cases role with
  | responder =>
    obtain ⟨hcoh, hsend⟩ := clearRegisters_coherent s
    exact .next fun _ => ⟨hcoh, fun _ => hsend⟩
  | initiator =>
    obtain ⟨hcoh, hsend⟩ := releaseTable_coherent h hs hrole
    exact .next fun _ => ⟨hcoh, fun _ => hsend⟩

end

/-! Every command, and every step. -/

theorem exec_illFormed {i : Instr} {s : State} (hf : s.fault = none) (hw : i.wf = false) :
    exec i s = answer .errIllegal s := by
  obtain ⟨body, hbody⟩ := exec_eq_checked i s
  simp [hbody, checked, hf, hw]

/-- From a state that meets the invariant, every command of a block that is not halted has a next state; where the
transport keeps its contract the next state meets the invariant. -/
theorem exec_settles (i : Instr) {s : State} (h : Coherent s) (hf : s.fault = none) :
    Answers (Settled (OpenFresh i s) (SendCoherent s)) (exec i s) := by
  have hreply (o : OutcomeCode) : Answers (Settled (OpenFresh i s) (SendCoherent s)) (answer o s) :=
    .next fun _ => ⟨h, id⟩
  by_cases hw : i.wf = true
  case neg =>
    rw [exec_illFormed hf (by simpa using hw)]
    exact hreply _
  by_cases ha : acceptedIn i.opcode s.session.state = true
  case neg =>
    rw [exec_notActive hf hw (by simpa using ha)]
    exact hreply _
  have hlive (hin : inSession s.session.state = true) : ∃ c, LiveState c s := h.liveState ⟨hf, hin⟩
  have hearly (hin : inSession s.session.state = true) (hsend : SendCoherent s) : QueuedEarly s := hsend.2 ⟨hf, hin⟩
  cases i with
  | accept sid bidi isLocal seed => exact execAccept_settles hf ((noSession_iff _).1 ha) hw id
  | connect sid bidi isLocal => exact execConnect_settles hf ((noSession_iff _).1 ha) bidi isLocal
  | deregister => exact execDeregister_settles h hf ((sessionExists_iff _).1 ha)
  | deliverBytes sid fin bidi isLocal payload =>
    obtain ⟨c, hc⟩ := hlive ha
    exact hc.execDeliverBytes (hearly ha) (of_decide_eq_true hw) id
  | requestSend sid m =>
    obtain ⟨c, hc⟩ := hlive ha
    exact hc.execRequestSend (hearly ha) m
  | deliverDatagram payload =>
    obtain ⟨c, hc⟩ := hlive ha
    exact hc.execDeliverDatagram (hearly ha) (of_decide_eq_true hw)
  | requestDatagram m pad =>
    obtain ⟨c, hc⟩ := hlive ha
    exact hc.execRequestDatagram (hearly ha) m pad
  | notifyReset sid =>
    obtain ⟨c, hc⟩ := hlive ha
    exact hc.execNotifyReset sid
  | idleTimeout =>
    obtain ⟨c, hc⟩ := hlive ha
    exact hc.execIdleTimeout

/-- Settles O56: one theorem says that every command answers and what it leaves. -/
theorem coherentBlockNeverSticks : Obligations.CoherentBlockNeverSticks := by
  intro i s h hf
  obtain ⟨t, ht, -⟩ := exec_settles i h hf
  exact ⟨t, ht⟩

/-- Settles O54: block reset is the state that clearing the registers leaves. -/
theorem blockResetIsCoherent : Obligations.BlockResetIsCoherent := clearRegisters_coherent State.reset

/-- Settles O53: every register by the definition of block reset. -/
theorem blockResetValues : Obligations.BlockResetValues := by
  refine ⟨rfl, rfl, rfl, rfl, rfl, rfl, rfl, rfl, rfl, rfl, rfl, rfl, rfl, rfl, rfl, fun _ => rfl, rfl, rfl, rfl, rfl, rfl,
    rfl, rfl, rfl, rfl, rfl, rfl, rfl, rfl, rfl, rfl, rfl, rfl, rfl, rfl, rfl⟩

/-- A delivery that decodes to no command and has a next state leaves only a reply. -/
theorem rejectDelivery_next {why : Reject} {s t : State} (h : rejectDelivery why s = .next t) :
    t = s.replied .errIllegal [] false := by
  by_cases hwhy : why = .payloadLength
  · subst hwhy
    cases h
  · rw [rejectDelivery_descriptor hwhy] at h
    exact answer_next h

/-- What a step that answers next has done: nothing, or the oldest delivery is taken, and is rejected or run. -/
theorem step_next {s t : State} (h : step s = .next t) :
    s.fault = none ∧
      (t = s ∨ ∃ d rest, s.inbox = d :: rest ∧
        (t = ({ s with inbox := rest, openAnswer := d.openAnswer } : State).replied .errIllegal [] false ∨
          ∃ i, decode d.word d.payload = .ok i ∧
            exec i { s with inbox := rest, openAnswer := d.openAnswer } = .next t)) := by
  have hf : s.fault = none := by
    cases hf : s.fault with
    | none => rfl
    | some kind =>
      rw [step_of_halted hf] at h
      cases h
  refine ⟨hf, ?_⟩
  cases hin : s.inbox with
  | nil =>
    rw [step_of_empty hf hin] at h
    exact .inl (Host.Outcome.next.inj h).symm
  | cons d rest =>
    refine .inr ⟨d, rest, rfl, ?_⟩
    cases hd : decode d.word d.payload with
    | ok i => exact .inr ⟨i, rfl, (step_of_decode_ok hf hin hd).symm.trans h⟩
    | error why => exact .inl (rejectDelivery_next ((step_of_decode_error hf hin hd).symm.trans h))

/-- Settles O55: taking the delivery out writes no register of the invariant, and the command that it decodes to keeps
the invariant, the transport's contract being the one of that command. -/
theorem stepKeepsCoherent : Obligations.StepKeepsCoherent := by
  intro s t h hcontract hstep
  obtain ⟨hf, rfl | ⟨d, rest, hin, rfl | ⟨i, hd, hexec⟩⟩⟩ := step_next hstep
  · exact ⟨h, id⟩
  · exact ⟨h, id⟩
  · have hfresh : OpenFresh i { s with inbox := rest, openAnswer := d.openAnswer } :=
      hcontract d (by simp [hin]) i (by simp [hd, Except.toOption])
    obtain ⟨u, hu, hsettled⟩ := exec_settles i (s := { s with inbox := rest, openAnswer := d.openAnswer }) h hf
    obtain rfl : t = u := Host.Outcome.next.inj (hexec.symm.trans hu)
    exact hsettled hfresh

end Sys2Proof.Machine
end

section
/-! PROOFS. The family of spec/40_decoder.md, continued: what processing bytes leaves unchanged, the framing violations
(R123, R124, R126, R129, R130), the whole frame (R123 to R131), and the turns that a delivery counts (R27, R188). -/

namespace Sys2Proof.Machine

theorem decodeBytes_append_ok {sid : StreamId} {xs : List Byte} {c c' : Bool} {s t : State}
    (h : decodeBytes sid xs c s = .ok t c') (ys : List Byte) :
    decodeBytes sid (xs ++ ys) c s = decodeBytes sid ys c' t := by
  rw [decodeBytes_append, h]

/-! What the bytes of a delivery write: the recorded baton, the decoder registers, and the stream's own record. -/

/-- From `s` to `t` only `S.baton_in`, the decoder registers and the record of `sid` are written, the two finite maps
staying in canonical form. -/
structure BytesWrite (sid : StreamId) (s t : State) : Prop where
  frame : t = { s with
    session := { s.session with batonIn := t.session.batonIn }, dec := t.dec, table := t.table }
  others : ∀ x, x ≠ sid → t.record x = s.record x
  canonical : Canonical s → Canonical t

section
variable {sid : StreamId} {s t u : State}

theorem BytesWrite.refl (sid : StreamId) (s : State) : BytesWrite sid s s := ⟨rfl, fun _ _ => rfl, id⟩

theorem BytesWrite.trans (h : BytesWrite sid s t) (h' : BytesWrite sid t u) : BytesWrite sid s u := by
  refine ⟨?_, fun x hx => (h'.others x hx).trans (h.others x hx), fun hs => h'.canonical (h.canonical hs)⟩
  rw [h'.frame, h.frame]

theorem BytesWrite.onDec (s : State) (f : Decoder → Decoder) (hf : s.dec.scratch.wf → (f s.dec).scratch.wf) :
    BytesWrite sid s (s.onDec f) := ⟨rfl, fun _ _ => rfl, fun hs => ⟨hs.1, hf hs.2⟩⟩

theorem decodeByte_ok_writes {b : Byte} {now : Bool} (h : decodeByte sid b s = .ok t now) : BytesWrite sid s t := by
  rcases decodeByte_ok h with ⟨-, -, m, b0, hw, -, -, ⟨-, rfl⟩ | ⟨-, bs, -, rfl⟩⟩ | ⟨-, -, rfl⟩ | ⟨-, -, rec, -, rfl⟩
  · exact .onDec s _ (Memory.write_spec hw).2.2.2
  · exact .onDec s _ (Memory.write_spec hw).2.2.2
  · exact .onDec s _ id
  · exact ⟨rfl, fun x hx => State.record_putRecord_ne s { rec with frameDone := true } hx,
      fun hs => hs.putRecord sid { rec with frameDone := true }⟩

theorem decodeByte_violation_writes {b : Byte} (h : decodeByte sid b s = .violation t) : BytesWrite sid s t := by
  rcases decodeByte_violation h with ⟨-, rfl⟩ | ⟨-, m, b0, hw, -, -, rfl⟩
  · exact .refl sid t
  · exact .onDec s _ (Memory.write_spec hw).2.2.2

theorem decodeBytes_writes (sid : StreamId) (bytes : List Byte) (c : Bool) (s : State) :
    (∀ t c', decodeBytes sid bytes c s = .ok t c' → BytesWrite sid s t) ∧
      (∀ t, decodeBytes sid bytes c s = .violation t → BytesWrite sid s t) :=
  decodeBytes_ind (fun _ _ _ _ hs h => hs.trans (decodeByte_ok_writes h))
    (fun _ _ _ hs h => hs.trans (decodeByte_violation_writes h)) (.refl sid s)

/-- Bytes that complete a frame end with the baton, and the frame is done (R128). -/
theorem decodeBytes_completed {bytes : List Byte} (h : decodeBytes sid bytes false s = .ok t true) :
    t.dec.phase = .done ∧ t.session.batonIn = bytes.getLast? := by
  induction bytes generalizing s with
  | nil => cases h
  | cons b rest ih =>
    rw [decodeBytes_cons] at h
    cases hb : decodeByte sid b s with
    | violation v => rw [hb] at h; cases h
    | stuck f => rw [hb] at h; cases h
    | ok v now =>
      rw [hb] at h
      by_cases hrest : rest = []
      · subst hrest
        obtain ⟨rfl, rfl⟩ : v = t ∧ now = true := by simpa using h
        rcases decodeByte_ok hb with ⟨-, hnow, -⟩ | ⟨-, hnow, -⟩ | ⟨-, -, rec, -, rfl⟩
        · cases hnow
        · cases hnow
        · exact ⟨rfl, rfl⟩
      · rcases decodeByte_ok_cases hb with ⟨-, hdone⟩ | ⟨rfl, -, -⟩
        · simp only [decodeBytes_done hdone hrest] at h
          cases h
        · obtain ⟨hdone, hlast⟩ := ih h
          obtain ⟨b', rest', rfl⟩ := List.exists_cons_of_ne_nil hrest
          exact ⟨hdone, by rw [hlast, List.getLast?_cons_cons]⟩

end

/-! The state in which the bytes are processed. -/

theorem State.record_knowStream_of_known {s : State} {x : StreamId} {rec : StreamRecord} (h : s.record x = some rec)
    (sid : StreamId) (bidi : Bool) : (s.knowStream sid bidi).record x = some rec := by
  rw [State.knowStream_record]
  split
  · rename_i hx
    rw [← hx, h, Option.getD_some]
  · exact h

/-- The state in which bytes are processed, its counter written as the claims write it. -/
theorem State.beginRange_eq_counted (s : State) (sid : StreamId) (bidi : Bool) (n : Nat) :
    s.beginRange sid bidi n = (((s.knowStream sid bidi).onSession fun x => { x with
      streamBytesReceived := BitVec.ofNat 64 (s.session.streamBytesReceived.toNat + n) }).associate sid) := by
  rw [State.beginRange, State.countBytes, State.onSession, State.onSession, State.knowStream_session]

theorem framingViolation_run {s : State} {c : StreamId} {crec : StreamRecord} (hc : s.session.controlStreamId = some c)
    (hcrec : s.record c = some crec) (hopen : crec.finSent = false) :
    framingViolation s = .next (((s.sendClose c crec .malformed).markClosed).replied .errFraming [] false) := by
  rw [framingViolation, closeSession_run hc hcrec, State.closeOn_of_unfinished hopen]

/-! The framing violations. -/

/-- A first byte from 0x80 on announces four or eight bytes (R101). -/
theorem two_lt_vlen {b : Byte} (h : 0x80 ≤ b.toNat) : 2 < vlen b := by
  have hb := b.isLt
  have htag : 2 ≤ (b.extractLsb' 6 2).toNat := by
    rw [BitVec.extractLsb'_toNat, Nat.shiftRight_eq_div_pow]
    omega
  rw [vlen, Nat.one_shiftLeft]
  exact (show 2 < 2 ^ 2 by decide).trans_le (Nat.pow_le_pow_right (by decide) htag)

/-- A stream that carried its baton, or another stream within a turn: no byte of the range is processed (R123, R126). -/
theorem byteRange_unexpected {s : State} {sid : StreamId} {rec : StreamRecord} (hrec : s.record sid = some rec)
    (h : s.dec.phase ≠ .idle ∧ s.session.activeRecv ≠ some sid ∨ rec.frameDone = true) (fin : Bool)
    (payload : List Byte) : byteRange sid fin payload s = framingViolation s := by
  rw [byteRange, withRecord_some hrec]
  by_cases hdone : rec.frameDone = true
  · rw [if_pos hdone]
  · rw [if_neg hdone, if_pos (h.resolve_right hdone)]

/-- Settles O24: the range is counted, and the close follows before any byte is processed. -/
theorem unexpectedStreamCloses : Obligations.UnexpectedStreamCloses := by
  intro s sid fin bidi isLocal payload c crec hs hduty hne hp hfits hc hcrec hopen hunexpected
  have hcontrol : ((s.knowStream sid bidi).countBytes payload.length).session.controlStreamId = some c := by
    rw [State.countBytes, State.onSession_session, State.knowStream_session]
    exact hc
  have hrec : ((s.knowStream sid bidi).countBytes payload.length).record sid =
      some ((s.record sid).getD (newRecord bidi false)) := by
    rw [State.countBytes, State.record_onSession, State.knowStream_record, if_pos rfl]
  have hturn : ((s.knowStream sid bidi).countBytes payload.length).dec.phase ≠ .idle ∧
      ((s.knowStream sid bidi).countBytes payload.length).session.activeRecv ≠ some sid ∨
        ((s.record sid).getD (newRecord bidi false)).frameDone = true := by
    rw [State.countBytes, State.onSession_session, State.onSession_dec, State.knowStream_session, State.knowStream_dec]
    refine hunexpected.imp_right ?_
    rintro ⟨rec, hrec, hdone⟩
    rw [hrec]
    exact hdone
  rw [exec_deliverBytes_accepted hs hp hduty, receiveRange_bytes hne (by simpa using hfits),
    byteRange_unexpected hrec hturn,
    framingViolation_run hcontrol (State.record_knowStream_of_known hcrec sid bidi) hopen]
  conv_lhs => rw [State.knowStream_eq]
  rfl

/-- Settles O25: the range ends in no phase D_DONE, and its end closes the session. -/
theorem finBeforeBatonCloses : Obligations.FinBeforeBatonCloses := by
  intro s u sid bidi isLocal payload c crec completed hs hduty hfresh hturn hne hp hfits hrun hphase hc hcrec hopen
  rw [← State.beginRange_eq_counted] at hrun
  rw [exec_deliverBytes_range ⟨hs, hduty, hfresh, hturn⟩ hne hp hfits, hrun, ByteRun.finish, endOfRange,
    if_neg (by decide), if_pos hphase, framingViolation_run hc hcrec hopen]
  rfl

/-- A byte after the bytes that complete a frame is a violation, in the state that the baton left (R129). -/
theorem exec_deliverBytes_extra {s u : State} {sid : StreamId} {isLocal bidi : Bool} {bytes extra : List Byte}
    (hs : TakesBytes s sid isLocal) (hextra : extra ≠ []) (hp : (bytes ++ extra).length < 2 ^ 16)
    (hfits : s.session.streamBytesReceived.toNat + (bytes ++ extra).length < 2 ^ 64)
    (hrun : decodeBytes sid bytes false (s.beginRange sid bidi (bytes ++ extra).length) = .ok u true) (fin : Bool) :
    exec (.deliverBytes sid fin bidi isLocal (bytes ++ extra)) s = framingViolation u := by
  have hne : bytes ++ extra ≠ [] := List.append_ne_nil_of_right_ne_nil bytes hextra
  rw [exec_deliverBytes_range hs hne hp hfits, decodeBytes_append_ok hrun,
    decodeBytes_done (decodeBytes_completed hrun).1 hextra]
  rfl

/-- What bytes processed for a range leave of the state before the range. -/
theorem TakesBytes.bytes_frame {s u : State} {sid : StreamId} {isLocal bidi : Bool} {n : Nat}
    (hs : TakesBytes s sid isLocal) (h : BytesWrite sid (s.beginRange sid bidi n) u) :
    u = { s with
      session := { s.session with
        activeRecv := some sid, batonIn := u.session.batonIn
        streamBytesReceived := BitVec.ofNat 64 (s.session.streamBytesReceived.toNat + n) }
      dec := u.dec, table := u.table } := by
  have hframe := h.frame
  rw [hs.beginRange_eq] at hframe
  exact hframe

/-- The record of another stream that is known is the same before the range and after its bytes. -/
theorem TakesBytes.bytes_record {s u : State} {sid x : StreamId} {isLocal bidi : Bool} {n : Nat}
    (hs : TakesBytes s sid isLocal) (h : BytesWrite sid (s.beginRange sid bidi n) u) (hx : x ≠ sid) :
    u.record x = s.record x := by
  rw [h.others x hx, hs.beginRange_eq]
  exact (State.knowStream_record s sid bidi x).trans (if_neg hx)

/-- From D_IDLE the bytes are processed in D_LEN, with nothing in the scratch. -/
theorem TakesBytes.beginRange_idle {s : State} {sid : StreamId} {isLocal : Bool} (hs : TakesBytes s sid isLocal)
    (hidle : s.dec.phase = .idle) (bidi : Bool) (n : Nat) :
    (s.beginRange sid bidi n).dec = { s.dec with phase := .len } := by
  rw [hs.beginRange_eq]
  simp only [hidle, if_true]

/-- Settles O22: the baton is recorded before the byte after it is looked at; the first part is the second for the bytes
of one frame. -/
theorem byteAfterBatonCloses : Obligations.ByteAfterBatonCloses := by
  refine ⟨?whole, ?resumed⟩
  case resumed =>
    intro s u sid fin bidi isLocal bytes extra c crec hs hduty hfresh hturn hextra hp hfits hrun hc hcrec hopen
    have htakes : TakesBytes s sid isLocal := ⟨hs, hduty, hfresh, hturn⟩
    rw [← State.beginRange_eq_counted] at hrun
    obtain ⟨hdone, hlast⟩ := decodeBytes_completed hrun
    have hframe := htakes.bytes_frame ((decodeBytes_writes sid bytes false _).1 u true hrun)
    rw [exec_deliverBytes_extra htakes hextra hp hfits hrun, framingViolation_run hc hcrec hopen]
    have hlog : u.log = s.log := by rw [hframe]
    have hcfg : u.cfg = s.cfg := by rw [hframe]
    refine ⟨?_, hdone, hlast, ?_, ?_, ?_, ?_, ?_, ?_, ?_⟩
    · rw [← hlog, ← hcfg]
      rfl
    · rw [hframe]
    · rw [hframe]
    · rw [hframe]
    · rw [hframe]
    · rw [hframe]
    · rw [hframe]
    · rw [hframe]
      exact hs.1
  case whole =>
    intro s sid fin bidi isLocal pfx padding extra b hs hcoh hidle hduty hfresh hframe hextra hp hfits
    have htakes : TakesBytes s sid isLocal := ⟨hs, hduty, hfresh, .inl hidle⟩
    obtain ⟨c, hlive⟩ := Coherent.liveState hcoh hs
    have hcsid : c ≠ sid := fun hx => hduty (.inl (hx ▸ hlive.controlStreamId))
    have hdec := htakes.beginRange_idle hidle bidi (pfx ++ padding ++ [b] ++ extra).length
    obtain ⟨u, hu⟩ := decodeBytes_frame (by rw [hdec]) (by rw [hdec]; exact hlive.dec.idle_empty hidle)
      (htakes.beginRange_record bidi _) hframe b false
    have hwrites := (decodeBytes_writes _ _ _ _).1 u true hu
    obtain ⟨hdone, hlast⟩ := decodeBytes_completed hu
    have hkept := htakes.bytes_frame hwrites
    obtain ⟨crec, hcrec, hopen⟩ := Option.map_eq_some_iff.1 hlive.control
    have hcontrol : u.session.controlStreamId = some c := by
      rw [hkept]
      exact hlive.controlStreamId
    rw [exec_deliverBytes_extra htakes hextra hp hfits hu,
      framingViolation_run hcontrol ((htakes.bytes_record hwrites hcsid).trans hcrec) hopen]
    refine ⟨_, rfl, rfl, rfl, rfl, rfl, hdone, hlast.trans List.getLast?_concat, ?_⟩
    rw [hkept]
    exact ⟨rfl, rfl, rfl, rfl, rfl, rfl, hs.1⟩

/-- Settles O23: the first byte is stored and announces more than two, so it is a violation in D_LEN. -/
theorem longPrefixCloses : Obligations.LongPrefixCloses := by
  intro s sid fin bidi isLocal b0 rest hs hcoh hidle hduty hfresh hlong hp hfits
  have htakes : TakesBytes s sid isLocal := ⟨hs, hduty, hfresh, .inl hidle⟩
  obtain ⟨c, hlive⟩ := Coherent.liveState hcoh hs
  have hcsid : c ≠ sid := fun hx => hduty (.inl (hx ▸ hlive.controlStreamId))
  have hdec := htakes.beginRange_idle hidle bidi (b0 :: rest).length
  have hempty : s.dec.scratchLen = 0 := hlive.dec.idle_empty hidle
  obtain ⟨m, hw⟩ : ∃ m, s.dec.scratch.write 0 b0 = some m := ⟨_, Memory.write_of_lt (by decide) b0⟩
  obtain ⟨-, hread, hkept, -⟩ := Memory.write_spec hw
  obtain ⟨u, hu⟩ : ∃ u, u = (s.beginRange sid bidi (b0 :: rest).length).onDec fun d => d.storePrefix m 1 := ⟨_, rfl⟩
  have hudec : u.dec = { s.dec with phase := .len, scratch := m, scratchLen := 1 } := by
    rw [hu, State.onDec_dec, hdec]
    rfl
  have hbyte : decodeByte sid b0 (s.beginRange sid bidi (b0 :: rest).length) = .violation u := by
    rw [decodeByte_len (by rw [hdec]) (by rw [hdec]; rwa [hempty]), hdec, hempty, hu]
    exact prefixStored_tooLong (s := (s.beginRange sid bidi (b0 :: rest).length).onDec _) hread (two_lt_vlen hlong)
  have hwrites := decodeByte_violation_writes hbyte
  have hframe := htakes.bytes_frame hwrites
  obtain ⟨crec, hcrec, hopen⟩ := Option.map_eq_some_iff.1 hlive.control
  have hcontrol : u.session.controlStreamId = some c := by
    rw [hframe]
    exact hlive.controlStreamId
  have hexec : exec (.deliverBytes sid fin bidi isLocal (b0 :: rest)) s = framingViolation u := by
    rw [exec_deliverBytes_range htakes (List.cons_ne_nil b0 rest) hp hfits, decodeBytes_cons, hbyte]
    rfl
  rw [hexec, framingViolation_run hcontrol ((htakes.bytes_record hwrites hcsid).trans hcrec) hopen]
  have hbaton : u.session.batonIn = s.session.batonIn := by rw [hu, State.onDec_session, htakes.beginRange_eq]
  have hundecided : s.dec.paddingExpected = none := hlive.dec.undecided_iff.2 (.inl hidle)
  refine ⟨_, rfl, rfl, rfl, rfl, rfl, ?_⟩
  show u.dec.phase = _ ∧ u.dec.scratchLen = _ ∧ u.dec.scratch.read 0 = _ ∧ u.dec.scratch.read 1 = _ ∧
    u.dec.paddingExpected = _ ∧ u.session.batonIn = _ ∧ u.session.turnCount = _ ∧ u.enc = _ ∧ u.dgram = _ ∧ u.fault = _
  rw [hudec]
  refine ⟨rfl, rfl, hread, hkept 1 (by decide), hundecided, hbaton, ?_⟩
  rw [hframe]
  exact ⟨rfl, rfl, rfl, hs.1⟩

/-! A whole frame, byte for byte (R123 to R131). -/

/-- The state after the bytes of a whole frame on `sid`, whose record was `rec`: the padding length's bytes in the scratch
`m`, the padding counted, and the baton `b` recorded. -/
def State.afterFrame (s : State) (sid : StreamId) (rec : StreamRecord) (m : Memory) (pfx padding : List Byte) (b : Byte) :
    State :=
  { s with
    session := { s.session with batonIn := some b }
    dec := { s.dec with
      phase := .done, scratch := m, scratchLen := pfx.length
      paddingExpected := some (BitVec.ofNat 14 padding.length), paddingReceived := BitVec.ofNat 14 padding.length }
    table := s.table.put sid { rec with frameDone := true } }

theorem decodeBytes_baton {s : State} {sid : StreamId} {rec : StreamRecord} (hp : s.dec.phase = .baton)
    (hrec : s.record sid = some rec) (b : Byte) (c : Bool) :
    decodeBytes sid [b] c s =
      .ok (((s.onSession fun x => { x with batonIn := some b }).putRecord sid { rec with frameDone := true }).onDec
        fun d => { d with phase := .done }) true := by
  rw [decodeBytes_cons, decodeByte_baton hp hrec]
  simp only [decodeBytes_nil, Bool.or_true]

theorem decodeBytes_wholeFrame {s : State} {sid : StreamId} {rec : StreamRecord} {pfx padding : List Byte}
    (hphase : s.dec.phase = .len) (h0 : s.dec.scratchLen = 0) (hrec : s.record sid = some rec)
    (hframe : IsFrame pfx padding) (b : Byte) :
    ∃ m : Memory, (∀ a, m.read a = pfx[a]?.or (s.dec.scratch.read a)) ∧
      decodeBytes sid (pfx ++ padding ++ [b]) false s = .ok (s.afterFrame sid rec m pfx padding b) true := by
  obtain ⟨hpfx, hlen⟩ := hframe
  obtain ⟨m, hread, hm⟩ := decodeBytes_prefix hphase h0 hpfx sid false
  have he : (BitVec.ofNat 14 padding.length).toNat = padding.length := by
    rw [BitVec.toNat_ofNat, hlen, Nat.mod_eq_of_lt hpfx.varintValue_lt]
  have hempty (e : PadLen) : e = 0 ↔ (0 : PadLen).toNat = e.toNat := BitVec.toNat_inj.symm.trans eq_comm
  have hall : (0 : PadLen).toNat + padding.length = (BitVec.ofNat 14 padding.length).toNat :=
    (Nat.zero_add _).trans he.symm
  rw [← hlen] at hm
  have hpadding := decodeBytes_padding
    (s := s.onDec fun d => (d.storePrefix m pfx.length).beginPadding (BitVec.ofNat 14 padding.length))
    (if_congr (hempty _) rfl rfl) rfl hall.le sid false
  have hbaton := decodeBytes_baton
    (s := s.onDec fun d => ((d.storePrefix m pfx.length).beginPadding (BitVec.ofNat 14 padding.length)).afterPadding
      (BitVec.ofNat 14 padding.length) padding.length) (if_pos hall) hrec b false
  refine ⟨m, hread, ?_⟩
  rw [List.append_assoc, decodeBytes_append_ok hm, decodeBytes_append_ok hpadding]
  refine hbaton.trans (congrArg (ByteRun.ok · true) ?_)
  have hcount : BitVec.ofNat 14 ((0 : PadLen).toNat + padding.length) = BitVec.ofNat 14 padding.length :=
    congrArg _ (Nat.zero_add _)
  simp only [State.onDec, State.onSession, State.putRecord, State.afterFrame, Decoder.afterPadding,
    Decoder.beginPadding, Decoder.storePrefix, hcount]

/-- The end of a range whose last byte was the baton: the stream's record is written with the end of the stream where it
came, and the turn check runs. -/
theorem endOfRange_completed {s : State} {sid : StreamId} {t : StreamTable} {rec : StreamRecord}
    (hdone : s.dec.phase = .done) (htable : s.table = t.put sid rec) (hfin : rec.finReceived = false) (fin : Bool) :
    endOfRange sid fin true s = turnCheck { s with table := t.put sid { rec with finReceived := fin } } := by
  cases fin with
  | false =>
    have hsame : t.put sid { rec with finReceived := false } = s.table := by rw [htable, ← hfin]
    rw [hsame]
    rfl
  | true =>
    have hrec : s.record sid = some rec := by
      rw [State.record, htable]
      exact StreamTable.find_put_same t sid rec
    rw [endOfRange, if_neg (by decide), if_neg (not_not_intro hdone), recordFin, withRecord_some hrec, State.putRecord,
      htable, StreamTable.put_put]
    rfl

/-- Settles O21: the bytes complete the frame, the end of the stream is recorded where it comes with them, and the turn
check runs. -/
theorem wholeFrameRunsTheTurnCheck : Obligations.WholeFrameRunsTheTurnCheck := by
  intro s sid fin bidi isLocal pfx padding b hs hidle hempty hduty hfresh hframe hfits
  have htakes : TakesBytes s sid isLocal := ⟨hs, hduty, hfresh, .inl hidle⟩
  have hdec := htakes.beginRange_idle hidle bidi (pfx ++ padding ++ [b]).length
  have hrec := htakes.beginRange_record bidi (pfx ++ padding ++ [b]).length
  obtain ⟨m, hread, hrun⟩ :=
    decodeBytes_wholeFrame (by rw [hdec]) (by rw [hdec]; exact hempty) hrec hframe b
  rw [hdec] at hread
  have hne : pfx ++ padding ++ [b] ≠ [] := List.concat_ne_nil _ _
  have hopen : ((s.record sid).getD (newRecord bidi false)).finReceived = false := by
    cases hr : s.record sid with
    | none => rfl
    | some rec =>
      by_contra hfin
      exact hduty (.inr (.inr (.inl ⟨rec, hr, by simpa using hfin⟩)))
  refine ⟨m, ?read0, ?read1, fun a ha => ?readOther, ?exec⟩
  case read0 =>
    rw [hread]
    rcases hframe.1.cases with ⟨b0, rfl, -⟩ | ⟨b0, b1, rfl, -⟩ <;> rfl
  case read1 =>
    rw [hread]
    rcases hframe.1.cases with ⟨b0, rfl, -⟩ | ⟨b0, b1, rfl, -⟩ <;> rfl
  case readOther =>
    rw [hread, List.getElem?_eq_none (hframe.1.2.trans ha)]
    rfl
  case exec =>
    rw [exec_deliverBytes_range htakes hne (hframe.length_lt b) hfits, hrun, ByteRun.finish,
      endOfRange_completed (rec := { (s.record sid).getD (newRecord bidi false) with frameDone := true }) rfl rfl hopen,
      htakes.beginRange_eq]
    rfl

/-! An empty range (R123). -/

/-- An empty range adds nothing to the received-byte counter. -/
theorem receiveRange_empty (s : State) (sid : StreamId) (fin : Bool) :
    receiveRange sid fin [] s = emptyRange sid fin s := by
  have hlt : s.session.streamBytesReceived.toNat + 0 < 2 ^ 64 := s.session.streamBytesReceived.isLt
  have hsame : BitVec.ofNat 64 (s.session.streamBytesReceived.toNat + 0) = s.session.streamBytesReceived := by
    rw [Nat.add_zero, BitVec.ofNat_toNat, BitVec.setWidth_eq]
  simp only [receiveRange, List.length_nil, addCounter_of_lt hlt, hsame, if_true]
  rfl

/-- Settles O26: the three ways through `empty_range`, in the state that knows the stream. -/
theorem emptyRangeRules : Obligations.EmptyRangeRules := by
  intro s sid bidi isLocal hs hduty
  have hexec (fin : Bool) : exec (.deliverBytes sid fin bidi isLocal []) s = emptyRange sid fin (s.knowStream sid bidi) := by
    rw [exec_deliverBytes_accepted hs (by decide) hduty, receiveRange_empty]
  have hrec : (s.knowStream sid bidi).record sid = some ((s.record sid).getD (newRecord bidi false)) := by
    rw [State.knowStream_record, if_pos rfl]
  simp only [hexec]
  refine ⟨rfl, fun hended => ?ended, fun c crec hrecv hphase hc hcrec hopen => ?closed⟩
  case ended =>
    have hnot : ¬ ((s.knowStream sid bidi).session.activeRecv = some sid ∧ (s.knowStream sid bidi).dec.phase ≠ .done) := by
      rwa [State.knowStream_session, State.knowStream_dec]
    rw [emptyRange, if_neg (by decide), if_neg hnot, recordFin, withRecord_some hrec]
    conv_lhs => rw [State.knowStream_eq]
    rfl
  case closed =>
    have hyes : (s.knowStream sid bidi).session.activeRecv = some sid ∧ (s.knowStream sid bidi).dec.phase ≠ .done := by
      rw [State.knowStream_session, State.knowStream_dec]
      exact ⟨hrecv, hphase⟩
    have hcontrol : (s.knowStream sid bidi).session.controlStreamId = some c := by rwa [State.knowStream_session]
    rw [emptyRange, if_neg (by decide), if_pos hyes,
      framingViolation_run hcontrol (State.record_knowStream_of_known hcrec sid bidi) hopen]
    conv_lhs => rw [State.knowStream_eq]
    rfl

/-! The turns that a delivery counts (R27, R188). -/

/-- From `s`, in which no frame was queued, to `t`: `n` turns are counted, a frame is queued, and it is announced. -/
structure FrameQueued (n : Nat) (s t : State) : Prop where
  turns : t.session.turnCount.toNat = s.session.turnCount.toNat + n
  idle : s.session.activeSend = none
  queued : t.session.activeSend ≠ none
  logged : s.log.length < t.log.length

/-- From `s` to `t` no turn is counted, nothing is emitted, and no frame is queued or released. -/
structure NoTurn (s t : State) : Prop where
  turnCount : t.session.turnCount = s.session.turnCount
  log : t.log = s.log
  activeSend : t.session.activeSend = s.session.activeSend

theorem FrameQueued.of_noTurn {n : Nat} {s t u : State} (h : NoTurn s t) (h' : FrameQueued n t u) :
    FrameQueued n s u :=
  ⟨h.turnCount ▸ h'.turns, h.activeSend ▸ h'.idle, h'.queued, h.log ▸ h'.logged⟩

theorem closeSession_not_live {code : CloseCode} {o : OutcomeCode} {s t : State}
    (h : closeSession code o s = .next t) : ¬ Live t := by
  obtain ⟨c, rec, -, -, rfl⟩ := closeSession_next h
  intro hlive
  have hin := hlive.2
  simp [inSession] at hin

section
variable {s t : State} {sid : StreamId}

theorem armStream_frameQueued (h : armStream sid s = .next t) (hs : s.session.activeSend = none) (ht : Live t) :
    FrameQueued 1 s t := by
  rcases armStream_next h with ⟨-, rfl⟩ | ⟨turns, hturns, rfl⟩
  · cases ht.1
  · exact ⟨(addCounter_some hturns).2, hs, Option.some_ne_none sid, by simp⟩

theorem openAndArm_frameQueued {bidi : Bool} (h : openAndArm bidi s = .next t) (hs : s.session.activeSend = none)
    (ht : Live t) : FrameQueued 1 s t := by
  rcases openAndArm_next h with ⟨-, hclose⟩ | ⟨a, control, -, -, harm⟩
  · exact absurd ht (closeSession_not_live hclose)
  · obtain ⟨hturns, -, hqueued, hlog⟩ := armStream_frameQueued harm hs ht
    exact ⟨hturns, hs, hqueued, by simp at hlog; omega⟩

theorem dispatchTurn_frameQueued {inbound : Option StreamId} (h : dispatchTurn inbound s = .next t) (ht : Live t) :
    FrameQueued 1 s t := by
  rcases dispatchTurn_next h with ⟨-, rfl⟩ | ⟨hs, bidi, hopen⟩ | ⟨hs, sid, rec, -, -, -, hsame⟩
  · cases ht.1
  · exact openAndArm_frameQueued hopen hs ht
  · rw [armSame] at hsame
    split at hsame
    · rw [raiseFault_next hsame] at ht
      cases ht.1
    · exact armStream_frameQueued hsame hs ht

/-- An accepted turn counts the peer's turn, and its dispatch this side's. -/
theorem acceptTurn_frameQueued {b : Byte} (h : acceptTurn b sid s = .next t) (ht : Live t) : FrameQueued 2 s t := by
  rcases acceptTurn_next h with ⟨-, rfl⟩ | ⟨turns, n, role, hturns, -, -, hdispatch⟩
  · cases ht.1
  · obtain ⟨hcount, hidle, hqueued, hlog⟩ := dispatchTurn_frameQueued hdispatch ht
    have hpeer := (addCounter_some hturns).2
    rw [State.mirrorBaton_session] at hcount hidle
    rw [State.mirrorBaton_log, List.length_append] at hlog
    refine ⟨hcount.trans ?_, hidle, hqueued, (Nat.le_add_right _ _).trans_lt hlog⟩
    rw [State.onSession_session, hpeer]

theorem turnCheck_frameQueued (h : turnCheck s = .next t) (ht : Live t) : FrameQueued 2 s t := by
  obtain ⟨b, r, -, -, ⟨-, rec, -, hzero⟩ | ⟨-, prev, -, -, -, hclose⟩ | ⟨-, -, haccept⟩⟩ := turnCheck_next h
  · exact absurd ht (closeSession_not_live hzero)
  · exact absurd ht (closeSession_not_live hclose)
  · exact acceptTurn_frameQueued haccept ht

theorem endOfRange_turns {fin c : Bool} (h : endOfRange sid fin c s = .next t) (ht : Live t) :
    NoTurn s t ∨ FrameQueued 2 s t := by
  rcases endOfRange_next h with ⟨-, -, hclose⟩ | ⟨u, hu, hend⟩
  · exact absurd ht (closeSession_not_live hclose)
  · have hkept : NoTurn s u := by
      rcases hu with ⟨rfl, -⟩ | ⟨-, -, rec, -, rfl⟩
      · exact ⟨rfl, rfl, rfl⟩
      · exact ⟨rfl, rfl, rfl⟩
    rcases hend with ⟨-, hcheck⟩ | ⟨-, rfl⟩
    · exact .inr (.of_noTurn hkept (turnCheck_frameQueued hcheck ht))
    · exact .inl ⟨hkept.turnCount, hkept.log, hkept.activeSend⟩

theorem emptyRange_turns {fin : Bool} (h : emptyRange sid fin s = .next t) (ht : Live t) : NoTurn s t := by
  rcases emptyRange_next h with ⟨-, rfl⟩ | ⟨-, -, -, hclose⟩ | ⟨-, rec, -, rfl⟩
  · exact ⟨rfl, rfl, rfl⟩
  · exact absurd ht (closeSession_not_live hclose)
  · exact ⟨rfl, rfl, rfl⟩

theorem State.associate_noTurn (s : State) (sid : StreamId) : NoTurn s (s.associate sid) := by
  by_cases h : s.dec.phase = .idle
  · rw [State.associate_of_idle h]
    exact ⟨rfl, rfl, rfl⟩
  · rw [State.associate_of_not_idle h]
    exact ⟨rfl, rfl, rfl⟩

theorem BytesWrite.noTurn (h : BytesWrite sid s t) : NoTurn s t := by
  rw [h.frame]
  exact ⟨rfl, rfl, rfl⟩

theorem NoTurn.trans {u : State} (h : NoTurn s t) (h' : NoTurn t u) : NoTurn s u :=
  ⟨h'.turnCount.trans h.turnCount, h'.log.trans h.log, h'.activeSend.trans h.activeSend⟩

theorem byteRange_turns {fin : Bool} {payload : List Byte} (h : byteRange sid fin payload s = .next t) (ht : Live t) :
    NoTurn s t ∨ FrameQueued 2 s t := by
  obtain ⟨rec, -, ⟨-, hclose⟩ | ⟨-, -, -, hclose⟩ | ⟨-, -, ⟨u, -, hclose⟩ | ⟨u, c, hu, hend⟩⟩⟩ := byteRange_next h
  · exact absurd ht (closeSession_not_live hclose)
  · exact absurd ht (closeSession_not_live hclose)
  · exact absurd ht (closeSession_not_live hclose)
  · have hkept := (s.associate_noTurn sid).trans ((decodeBytes_writes sid payload false _).1 u c hu).noTurn
    exact (endOfRange_turns hend ht).imp hkept.trans (.of_noTurn hkept)

theorem receiveRange_turns {fin : Bool} {payload : List Byte} (h : receiveRange sid fin payload s = .next t)
    (ht : Live t) : NoTurn s t ∨ FrameQueued 2 s t := by
  rcases receiveRange_next h with ⟨-, rfl⟩ | ⟨total, -, ⟨-, hempty⟩ | ⟨-, hbytes⟩⟩
  · cases ht.1
  · obtain ⟨hturns, hlog, hsend⟩ := emptyRange_turns hempty ht
    exact .inl ⟨hturns, hlog, hsend⟩
  · have hcounted : NoTurn s (s.onSession fun x => { x with streamBytesReceived := total }) := ⟨rfl, rfl, rfl⟩
    exact (byteRange_turns hbytes ht).imp hcounted.trans (.of_noTurn hcounted)

theorem State.knowStream_noTurn (s : State) (sid : StreamId) (bidi : Bool) : NoTurn s (s.knowStream sid bidi) := by
  rw [State.knowStream_eq]
  exact ⟨rfl, rfl, rfl⟩

end

/-- What passes the checks of R263 and is not refused runs its body. -/
theorem checked_next {i : Instr} {accepts : SessionState → Bool} {s t : State} {body : State → Result}
    (h : checked i accepts s body = .next t) :
    s.fault = none ∧ ((∃ o, t = s.replied o [] false) ∨
      (i.wf = true ∧ accepts s.session.state = true ∧ body s = .next t)) := by
  rcases checked_cases i accepts s body with ⟨kind, -, hc⟩ | ⟨hf, -, hc⟩ | ⟨hf, -, -, hc⟩ | ⟨hf, hw, ha, hc⟩
  · rw [hc] at h
    cases h
  · exact ⟨hf, .inl ⟨_, answer_next (hc.symm.trans h)⟩⟩
  · exact ⟨hf, .inl ⟨_, answer_next (hc.symm.trans h)⟩⟩
  · exact ⟨hf, .inr ⟨hw, ha, hc.symm.trans h⟩⟩

/-- Settles O28: short of a turn check nothing is counted or emitted, and a turn check that leaves the session in progress
counts the peer's turn and dispatches this side's. -/
theorem deliveryCountsTwoTurnsOrNone : Obligations.DeliveryCountsTwoTurnsOrNone := by
  intro s t sid fin bidi isLocal payload hs h ht
  have hturns : NoTurn s t ∨ FrameQueued 2 s t := by
    rw [exec, execDeliverBytes] at h
    obtain ⟨-, ⟨o, rfl⟩ | ⟨-, -, hbody⟩⟩ := checked_next h
    · exact .inl ⟨rfl, rfl, rfl⟩
    · split at hbody
      · rw [answer_next hbody]
        exact .inl ⟨rfl, rfl, rfl⟩
      · have hknown := s.knowStream_noTurn sid bidi
        exact (receiveRange_turns hbody ht).imp hknown.trans (.of_noTurn hknown)
  rcases hturns with ⟨hcount, hlog, hsend⟩ | ⟨hcount, hidle, hqueued, hlog⟩
  · exact .inl ⟨hcount, hlog, hsend⟩
  · exact .inr ⟨hcount, hidle, hqueued, hlog⟩

end Sys2Proof.Machine
end

section
/-! PROOFS. What a command can do from any state: it appends to the log, with at most one close message, which is its
close (R47, R221); it keeps the two finite maps in canonical form (R40, R61), the configuration inputs, the registers
that are fixed for a session (R28, R44), and the baton of a frame that stays queued (R153); and a closed session stays
closed (R265). -/

namespace Sys2Proof.Machine

/-! The two relations: what may be written before a command ends, and what a command leaves. -/

/-- `turns_required`, the role and the control stream are the same in two states. -/
structure SessionFixed (s t : State) : Prop where
  turnsRequired : t.session.turnsRequired = s.session.turnsRequired
  role : t.session.role = s.session.role
  controlStreamId : t.session.controlStreamId = s.session.controlStreamId

/-- The configuration inputs, the pending deliveries and the open answer are the same in two states. -/
structure OutsideKept (s t : State) : Prop where
  cfg : t.cfg = s.cfg
  inbox : t.inbox = s.inbox
  openAnswer : t.openAnswer = s.openAnswer

/-- From `s` to `t` a session in progress is written to, and no close message is sent. -/
structure Writes (s t : State) : Prop where
  canonical : Canonical s → Canonical t
  log : ∃ events, t.log = s.log ++ events ∧ closeMessages events = 0
  session : SessionFixed s t
  outside : OutsideKept s t

/-- A frame queued in `s` carries the same baton in `t`, unless a model fault was raised. -/
def BatonKept (s t : State) : Prop :=
  s.session.activeSend ≠ none → t.fault = none → t.session.batonOut = s.session.batonOut

/-- What a command leaves of the session in progress in `s`: at most one close message is sent, and then the session is
closed with a code recorded. -/
structure Effect (s t : State) : Prop where
  canonical : Canonical s → Canonical t
  log : ∃ events, t.log = s.log ++ events ∧ (closeMessages events = 0 ∨
    closeMessages events = 1 ∧ t.session.state = .closed ∧ t.session.closeCode ≠ none)
  session : SessionFixed s t
  outside : OutsideKept s t
  baton : BatonKept s t

theorem closeMessages_append (l l' : List Event) : closeMessages (l ++ l') = closeMessages l + closeMessages l' :=
  List.countP_append

section
variable {s t u : State}

theorem SessionFixed.refl (s : State) : SessionFixed s s := ⟨rfl, rfl, rfl⟩

theorem SessionFixed.trans (h : SessionFixed s t) (h' : SessionFixed t u) : SessionFixed s u :=
  ⟨h'.turnsRequired.trans h.turnsRequired, h'.role.trans h.role, h'.controlStreamId.trans h.controlStreamId⟩

theorem OutsideKept.refl (s : State) : OutsideKept s s := ⟨rfl, rfl, rfl⟩

theorem OutsideKept.trans (h : OutsideKept s t) (h' : OutsideKept t u) : OutsideKept s u :=
  ⟨h'.cfg.trans h.cfg, h'.inbox.trans h.inbox, h'.openAnswer.trans h.openAnswer⟩

theorem Writes.trans (h : Writes s t) (h' : Writes t u) : Writes s u := by
  obtain ⟨events, hlog, hclose⟩ := h.log
  obtain ⟨events', hlog', hclose'⟩ := h'.log
  refine ⟨fun hs => h'.canonical (h.canonical hs), ⟨events ++ events', ?_, ?_⟩, h.session.trans h'.session,
    h.outside.trans h'.outside⟩
  · rw [hlog', hlog, List.append_assoc]
  · rw [closeMessages_append, hclose, hclose']

/-- What was written before the command's last operation is part of what the command leaves. -/
theorem Effect.of_writes (h : Writes s u) (hbaton : BatonKept u t → BatonKept s t) (h' : Effect u t) : Effect s t := by
  obtain ⟨events, hlog, hclose⟩ := h.log
  obtain ⟨events', hlog', hclose'⟩ := h'.log
  refine ⟨fun hs => h'.canonical (h.canonical hs), ⟨events ++ events', ?_, ?_⟩, h.session.trans h'.session,
    h.outside.trans h'.outside, hbaton h'.baton⟩
  · rw [hlog', hlog, List.append_assoc]
  · rwa [closeMessages_append, hclose, Nat.zero_add]

theorem Writes.effect (h : Writes s t) (hbaton : BatonKept s t) : Effect s t := by
  obtain ⟨events, hlog, hclose⟩ := h.log
  exact ⟨h.canonical, ⟨events, hlog, .inl hclose⟩, h.session, h.outside, hbaton⟩

/-! The updates of the state that send no close message. -/

theorem Writes.refl (s : State) : Writes s s := ⟨id, ⟨[], (List.append_nil _).symm, rfl⟩, .refl s, .refl s⟩

/-- An update that leaves the log, the fixed registers and what lies outside as they are. -/
theorem Writes.of_silent (hcanon : Canonical s → Canonical t) (hlog : t.log = s.log) (hsession : SessionFixed s t)
    (houtside : OutsideKept s t) : Writes s t :=
  ⟨hcanon, ⟨[], hlog.trans (List.append_nil _).symm, rfl⟩, hsession, houtside⟩

theorem Writes.onSession (s : State) (f : Session → Session) (hf : SessionFixed s (s.onSession f)) :
    Writes s (s.onSession f) := .of_silent id rfl hf ⟨rfl, rfl, rfl⟩

theorem Writes.putRecord (s : State) (sid : StreamId) (rec : StreamRecord) : Writes s (s.putRecord sid rec) :=
  .of_silent (fun hs => hs.putRecord sid rec) rfl ⟨rfl, rfl, rfl⟩ ⟨rfl, rfl, rfl⟩

theorem Writes.onDgram (s : State) (f : Datagram → Datagram) : Writes s (s.onDgram f) :=
  .of_silent id rfl ⟨rfl, rfl, rfl⟩ ⟨rfl, rfl, rfl⟩

theorem Writes.onEnc (s : State) (f : Encoder → Encoder) : Writes s (s.onEnc f) :=
  .of_silent id rfl ⟨rfl, rfl, rfl⟩ ⟨rfl, rfl, rfl⟩

theorem Writes.replied (s : State) (o : OutcomeCode) (bytes : List Byte) (fin : Bool) :
    Writes s (s.replied o bytes fin) := .of_silent id rfl ⟨rfl, rfl, rfl⟩ ⟨rfl, rfl, rfl⟩

theorem Writes.fault (s : State) (kind : ModelFault) : Writes s { s with fault := some kind, reply := none } :=
  .of_silent id rfl ⟨rfl, rfl, rfl⟩ ⟨rfl, rfl, rfl⟩

theorem Writes.emit (s : State) {e : Event} (he : closeMessages [e] = 0) : Writes s (s.emit e) :=
  ⟨id, ⟨[e], rfl, he⟩, ⟨rfl, rfl, rfl⟩, ⟨rfl, rfl, rfl⟩⟩

theorem Writes.knowStream (s : State) (sid : StreamId) (bidi : Bool) : Writes s (s.knowStream sid bidi) := by
  refine .of_silent (fun hs => hs.knowStream sid bidi) ?_ ⟨?_, ?_, ?_⟩ ⟨?_, ?_, ?_⟩ <;> rw [State.knowStream_eq]

theorem Writes.associate (s : State) (sid : StreamId) : Writes s (s.associate sid) := by
  by_cases h : s.dec.phase = .idle
  · rw [State.associate_of_idle h]
    exact .of_silent id rfl ⟨rfl, rfl, rfl⟩ ⟨rfl, rfl, rfl⟩
  · rw [State.associate_of_not_idle h]
    exact .refl s

theorem Writes.of_bytes {sid : StreamId} (h : BytesWrite sid s t) : Writes s t := by
  refine .of_silent h.canonical ?_ ⟨?_, ?_, ?_⟩ ⟨?_, ?_, ?_⟩ <;> rw [h.frame]

theorem answer_effect {o : OutcomeCode} (h : answer o s = .next t) : Effect s t := by
  rw [answer_next h]
  exact (Writes.replied s o [] false).effect fun _ _ => rfl

theorem fault_effect (s : State) (kind : ModelFault) : Effect s { s with fault := some kind, reply := none } :=
  (Writes.fault s kind).effect fun _ hf => by cases hf

theorem raiseFault_effect {kind : ModelFault} (h : raiseFault kind s = .next t) : Effect s t := by
  rw [raiseFault_next h]
  exact fault_effect s kind

/-! The close procedure and the dispatcher. -/

/-- The close procedure sends at most one close message, and leaves the session closed. -/
theorem closeOn_effect (s : State) (c : StreamId) (rec : StreamRecord) (code : CloseCode) :
    Effect s (s.closeOn c rec code) := by
  refine ⟨fun hs => hs.closeOn c rec code, ⟨_, State.closeOn_log s c rec code, ?_⟩, ⟨?_, ?_, ?_⟩, ⟨?_, ?_, ?_⟩,
    fun _ _ => ?_⟩
  case refine_1 =>
    cases hfin : rec.finSent with
    | true => exact .inl rfl
    | false => exact .inr ⟨rfl, by simp [hfin]⟩
  all_goals simp

/-- What is emitted or replied after a close leaves it the command's one close. -/
theorem Effect.closed_then (h : Effect s t) (ht : Writes t u) (hsession : u.session = t.session)
    (hfault : u.fault = t.fault) : Effect s u := by
  obtain ⟨events, hlog, hclose⟩ := h.log
  obtain ⟨events', hlog', hclose'⟩ := ht.log
  refine ⟨fun hs => ht.canonical (h.canonical hs), ⟨events ++ events', ?_, ?_⟩, h.session.trans ht.session,
    h.outside.trans ht.outside, fun hsend hf => ?_⟩
  · rw [hlog', hlog, List.append_assoc]
  · rwa [closeMessages_append, hclose', hsession]
  · rw [hsession]
    exact h.baton hsend (hfault.symm.trans hf)

theorem closeSession_effect {code : CloseCode} {o : OutcomeCode} (h : closeSession code o s = .next t) :
    Effect s t := by
  obtain ⟨c, rec, -, -, rfl⟩ := closeSession_next h
  exact (closeOn_effect s c rec code).closed_then (.replied _ o [] false) rfl rfl

theorem armStream_effect {sid : StreamId} (h : armStream sid s = .next t) : Effect s t := by
  rcases armStream_next h with ⟨-, rfl⟩ | ⟨turns, -, rfl⟩
  · exact fault_effect s _
  · have hsession := Writes.onSession s (fun x => { x with turnCount := turns, activeSend := some sid }) ⟨rfl, rfl, rfl⟩
    exact (((hsession.trans (.onEnc _ _)).trans (.emit _ rfl)).trans (.replied _ _ _ _)).effect fun _ _ => rfl

theorem openAndArm_effect {bidi : Bool} (h : openAndArm bidi s = .next t) : Effect s t := by
  have hopened (a : Option StreamId) : Writes s (s.emit (openEvent bidi a)) := .emit s (by cases bidi <;> rfl)
  rcases openAndArm_next h with ⟨-, hclose⟩ | ⟨sid, control, -, -, harm⟩
  · exact (closeSession_effect hclose).of_writes (hopened none) id
  · exact (armStream_effect harm).of_writes (((hopened (some sid)).trans (.putRecord _ _ _)).trans (.emit _ rfl)) id

theorem dispatchTurn_effect {inbound : Option StreamId} (h : dispatchTurn inbound s = .next t) : Effect s t := by
  rcases dispatchTurn_next h with ⟨-, rfl⟩ | ⟨-, bidi, hopen⟩ | ⟨-, sid, rec, -, -, -, hsame⟩
  · exact fault_effect s _
  · exact openAndArm_effect hopen
  · rw [armSame] at hsame
    split at hsame
    · exact raiseFault_effect hsame
    · exact armStream_effect hsame

/-! The turn check. -/

theorem Writes.mirrorBaton (s : State) (b : Byte) (role : Role) : Writes s (s.mirrorBaton b role) := by
  rw [State.mirrorBaton]
  split
  · exact (Writes.onDgram s _).trans (.emit _ rfl)
  · exact .refl s

/-- An accepted turn writes `S.baton_out`, and where a frame is queued then its dispatch raises TURN_OVERLAP. -/
theorem acceptTurn_effect {b : Byte} {r : StreamId} (h : acceptTurn b r s = .next t) : Effect s t := by
  have hfirst : Writes s (s.noteFirst b) := .onSession s _ ⟨rfl, rfl, rfl⟩
  rcases acceptTurn_next h with ⟨-, rfl⟩ | ⟨turns, n, role, -, -, -, hdispatch⟩
  · exact (fault_effect (s.noteFirst b) _).of_writes hfirst id
  · refine (dispatchTurn_effect hdispatch).of_writes
      ((hfirst.trans (.onSession _ _ ⟨rfl, rfl, rfl⟩)).trans (.mirrorBaton _ b role)) fun _ hsend hf => ?_
    rw [dispatchTurn_overlap (by simpa using hsend)] at hdispatch
    rw [raiseFault_next hdispatch] at hf
    cases hf

theorem zeroBaton_effect {r : StreamId} {rec : StreamRecord} (h : zeroBaton r rec s = .next t) : Effect s t := by
  have hclose := closeSession_effect h
  by_cases howed : finOwed rec = true
  · rw [if_pos howed] at hclose
    exact hclose.of_writes (((Writes.emit s rfl).trans (.putRecord _ _ _)).trans (.onSession _ _ ⟨rfl, rfl, rfl⟩)) id
  · rw [if_neg howed] at hclose
    exact hclose.of_writes (.onSession s _ ⟨rfl, rfl, rfl⟩) id

theorem turnCheck_effect (h : turnCheck s = .next t) : Effect s t := by
  obtain ⟨b, r, -, -, ⟨-, rec, -, hzero⟩ | ⟨-, prev, -, -, -, hclose⟩ | ⟨-, -, haccept⟩⟩ := turnCheck_next h
  · exact zeroBaton_effect hzero
  · exact (closeSession_effect hclose).of_writes (.onSession s _ ⟨rfl, rfl, rfl⟩) id
  · exact acceptTurn_effect haccept

/-! A delivery. -/

theorem endOfRange_effect {sid : StreamId} {fin c : Bool} (h : endOfRange sid fin c s = .next t) : Effect s t := by
  rcases endOfRange_next h with ⟨-, -, hclose⟩ | ⟨u, hu, hend⟩
  · exact closeSession_effect hclose
  · have hkept : Effect u t := by
      rcases hend with ⟨-, hcheck⟩ | ⟨-, rfl⟩
      · exact turnCheck_effect hcheck
      · exact answer_effect rfl
    rcases hu with ⟨rfl, -⟩ | ⟨-, -, rec, -, rfl⟩
    · exact hkept
    · exact hkept.of_writes (.putRecord s sid _) id

theorem emptyRange_effect {sid : StreamId} {fin : Bool} (h : emptyRange sid fin s = .next t) : Effect s t := by
  rcases emptyRange_next h with ⟨-, rfl⟩ | ⟨-, -, -, hclose⟩ | ⟨-, rec, -, rfl⟩
  · exact answer_effect rfl
  · exact closeSession_effect hclose
  · exact (answer_effect rfl).of_writes (.putRecord s sid _) id

theorem State.associate_batonKept (s t : State) (sid : StreamId) (h : BatonKept (s.associate sid) t) :
    BatonKept s t := by
  by_cases hp : s.dec.phase = .idle
  · rw [State.associate_of_idle hp] at h
    exact h
  · rwa [State.associate_of_not_idle hp] at h

theorem byteRange_effect {sid : StreamId} {fin : Bool} {payload : List Byte}
    (h : byteRange sid fin payload s = .next t) : Effect s t := by
  have hbytes {u : State} (hu : BytesWrite sid (s.associate sid) u) (h' : Effect u t) : Effect s t := by
    refine h'.of_writes ((Writes.associate s sid).trans (.of_bytes hu)) fun hkept => s.associate_batonKept t sid ?_
    rw [hu.frame] at hkept
    exact hkept
  obtain ⟨rec, -, ⟨-, hclose⟩ | ⟨-, -, -, hclose⟩ | ⟨-, -, ⟨u, hu, hclose⟩ | ⟨u, c, hu, hend⟩⟩⟩ := byteRange_next h
  · exact closeSession_effect hclose
  · exact closeSession_effect hclose
  · exact hbytes ((decodeBytes_writes sid payload false _).2 u hu) (closeSession_effect hclose)
  · exact hbytes ((decodeBytes_writes sid payload false _).1 u c hu) (endOfRange_effect hend)

theorem receiveRange_effect {sid : StreamId} {fin : Bool} {payload : List Byte}
    (h : receiveRange sid fin payload s = .next t) : Effect s t := by
  rcases receiveRange_next h with ⟨-, rfl⟩ | ⟨total, -, ⟨-, hempty⟩ | ⟨-, hbytes⟩⟩
  · exact fault_effect s _
  · exact (emptyRange_effect hempty).of_writes (.onSession s _ ⟨rfl, rfl, rfl⟩) id
  · exact (byteRange_effect hbytes).of_writes (.onSession s _ ⟨rfl, rfl, rfl⟩) id

theorem knowStream_batonKept {sid : StreamId} {bidi : Bool} (h : BatonKept (s.knowStream sid bidi) t) :
    BatonKept s t := by
  rw [State.knowStream_eq] at h
  exact h

/-! An offer of send space, and the datagram commands. -/

theorem Writes.completeFrame (s : State) (sid : StreamId) (rec : StreamRecord) : Writes s (s.completeFrame sid rec) :=
  .of_silent (fun hs => hs.putRecord sid { rec with finSent := true }) rfl ⟨rfl, rfl, rfl⟩ ⟨rfl, rfl, rfl⟩

theorem writeFrame_effect {sid : StreamId} {p : PadLen} {b : Byte} {m : Nat} (h : writeFrame sid p b m s = .next t) :
    Effect s t := by
  obtain ⟨u, rfl, ⟨-, rec, -, rfl⟩ | ⟨-, rfl⟩⟩ := writeFrame_next h
  · exact (((Writes.onEnc s _).trans (.completeFrame _ sid rec)).trans (.replied _ _ _ _)).effect fun _ _ => rfl
  · exact ((Writes.onEnc s _).trans (.replied _ _ _ _)).effect fun _ _ => rfl

end

/-! Every command. -/

/-- What a command that answers next has done: it was refused, it created a session, it released one, or it ran in a
session in progress. -/
inductive CommandDone (i : Instr) (s t : State) : Prop where
  | refused (o : OutcomeCode) (ht : t = s.replied o [] false)
  | accepted (hi : i.opcode = .accept) (hidle : s.session.state = .idle) (sid : StreamId) (bidi isLocal : Bool)
      (seed : Byte) (heffect : Effect (s.createSession .responder sid bidi isLocal (some seed)) t)
  | connected (hidle : s.session.state = .idle) (sid : StreamId) (bidi isLocal : Bool)
      (ht : t = (s.createSession .initiator sid bidi isLocal none).replied .ok [] false)
  | released (hi : i = .deregister) (hs : s.session.state ≠ .idle) (hrole : s.session.role = some .responder)
      (ht : t = s.clearRegisters.replied .ok [] false)
  | tableReleased (hi : i = .deregister) (hs : s.session.state ≠ .idle) (hrole : s.session.role = some .initiator)
      (ht : t = ({ s with table := [] }.markClosed).replied .ok [] false)
  | ran (hs : Live s) (heffect : Effect s t)

theorem exec_done {i : Instr} {s t : State} (h : exec i s = .next t) : CommandDone i s t := by
  cases i with
  | accept sid bidi isLocal seed =>
    rw [exec, execAccept] at h
    obtain ⟨-, ⟨o, ht⟩ | ⟨-, ha, hbody⟩⟩ := checked_next h
    · exact .refused o ht
    · exact .accepted rfl ((noSession_iff _).1 ha) sid bidi isLocal seed (dispatchTurn_effect hbody)
  | connect sid bidi isLocal =>
    rw [exec, execConnect] at h
    obtain ⟨-, ⟨o, ht⟩ | ⟨-, ha, hbody⟩⟩ := checked_next h
    · exact .refused o ht
    · exact .connected ((noSession_iff _).1 ha) sid bidi isLocal (answer_next hbody)
  | deregister =>
    rw [exec, execDeregister] at h
    obtain ⟨-, ⟨o, ht⟩ | ⟨-, ha, hbody⟩⟩ := checked_next h
    · exact .refused o ht
    · obtain ⟨role, hrole, hreleased⟩ := needed_next hbody
      cases role with
      | responder => exact .released rfl ((sessionExists_iff _).1 ha) hrole (answer_next hreleased)
      | initiator => exact .tableReleased rfl ((sessionExists_iff _).1 ha) hrole (answer_next hreleased)
  | deliverBytes sid fin bidi isLocal payload =>
    rw [exec, execDeliverBytes] at h
    obtain ⟨hf, ⟨o, ht⟩ | ⟨-, ha, hbody⟩⟩ := checked_next h
    · exact .refused o ht
    · split at hbody
      · exact .refused _ (answer_next hbody)
      · exact .ran ⟨hf, ha⟩ ((receiveRange_effect hbody).of_writes (.knowStream s sid bidi) knowStream_batonKept)
  | requestSend sid m =>
    rw [exec, execRequestSend] at h
    obtain ⟨hf, ⟨o, ht⟩ | ⟨-, ha, hbody⟩⟩ := checked_next h
    · exact .refused o ht
    · split at hbody
      · exact .refused _ (answer_next hbody)
      · obtain ⟨b, -, hwrite⟩ := needed_next hbody
        exact .ran ⟨hf, ha⟩ (writeFrame_effect hwrite)
  | deliverDatagram payload =>
    rw [exec, execDeliverDatagram] at h
    obtain ⟨hf, ⟨o, ht⟩ | ⟨-, ha, hbody⟩⟩ := checked_next h
    · exact .refused o ht
    · split at hbody
      · exact .refused _ (answer_next hbody)
      · rename_i v _
        have hseen := Writes.onDgram s fun g => { g with lastValue := some v }
        rcases countReceived_next hbody with ⟨u, rfl, rfl | ⟨received, rfl⟩⟩ | ⟨received, bytes, -, -, hanswer⟩
        · exact .ran ⟨hf, ha⟩ ((fault_effect _ _).of_writes hseen id)
        · exact .ran ⟨hf, ha⟩ ((fault_effect _ _).of_writes (hseen.trans (.onDgram _ _)) id)
        · exact .ran ⟨hf, ha⟩ ((answer_effect hanswer).of_writes (hseen.trans (.onDgram _ _)) id)
  | requestDatagram m pad =>
    rw [exec, execRequestDatagram] at h
    obtain ⟨hf, ⟨o, ht⟩ | ⟨-, ha, hbody⟩⟩ := checked_next h
    · exact .refused o ht
    · split at hbody
      · exact .refused _ (answer_next hbody)
      · obtain ⟨v, -, hcount⟩ := needed_next hbody
        have hdisarmed := Writes.onDgram s fun g => { g with ready := false }
        rcases countSent_next hcount with ⟨u, rfl, rfl | ⟨sent, rfl⟩⟩ | ⟨sent, bytes, -, -, hsent⟩
        · exact .ran ⟨hf, ha⟩ ((fault_effect _ _).of_writes hdisarmed id)
        · exact .ran ⟨hf, ha⟩ ((fault_effect _ _).of_writes (hdisarmed.trans (.onDgram _ _)) id)
        · obtain rfl := Host.Outcome.next.inj hsent
          exact .ran ⟨hf, ha⟩ (((hdisarmed.trans (.onDgram _ _)).trans (.replied _ _ _ _)).effect fun _ _ => rfl)
  | notifyReset sid =>
    rw [exec, execNotifyReset] at h
    obtain ⟨hf, ⟨o, ht⟩ | ⟨-, ha, hbody⟩⟩ := checked_next h
    · exact .refused o ht
    · obtain ⟨c, rec, -, -, hclosed⟩ := closeThen_next hbody
      obtain ⟨role, -, hanswer⟩ := needed_next hclosed
      have hclose := closeOn_effect s c rec .allStreamsReset
      rw [answer_next hanswer]
      cases role with
      | responder => exact .ran ⟨hf, ha⟩ (hclose.closed_then (.replied _ _ _ _) rfl rfl)
      | initiator => exact .ran ⟨hf, ha⟩ (hclose.closed_then ((Writes.emit _ rfl).trans (.replied _ _ _ _)) rfl rfl)
  | idleTimeout =>
    rw [exec, execIdleTimeout] at h
    obtain ⟨hf, ⟨o, ht⟩ | ⟨-, ha, hbody⟩⟩ := checked_next h
    · exact .refused o ht
    · exact .ran ⟨hf, ha⟩ (closeSession_effect hbody)

/-! The invariants of every command. -/

/-- Settles O58: whatever a command did, it only appended. -/
theorem outputLogOnlyGrows : Obligations.OutputLogOnlyGrows := by
  intro i s t h
  cases exec_done h with
  | refused o ht => exact ⟨[], by simp [ht]⟩
  | accepted _ _ sid bidi isLocal seed heffect =>
    obtain ⟨events, hlog, -⟩ := heffect.log
    exact ⟨events, hlog⟩
  | connected _ _ _ _ ht => exact ⟨[], by simp [ht]⟩
  | released _ _ _ ht => exact ⟨[], by simp [ht]⟩
  | tableReleased _ _ _ ht => exact ⟨[], by simp [ht]⟩
  | ran _ heffect =>
    obtain ⟨events, hlog, -⟩ := heffect.log
    exact ⟨events, hlog⟩

/-- Settles O59: creation is refused once a session exists, so the release of a responder's session is the one command
that writes a register fixed for a session. -/
theorem readOnlyRegisters : Obligations.ReadOnlyRegisters := by
  intro i s t h
  have hboth : OutsideKept s t ∧
      (s.session.state ≠ .idle → ¬ (i = .deregister ∧ s.session.role = some .responder) → SessionFixed s t) := by
    cases exec_done h with
    | refused o ht =>
      subst ht
      exact ⟨⟨rfl, rfl, rfl⟩, fun _ _ => ⟨rfl, rfl, rfl⟩⟩
    | accepted _ hidle sid bidi isLocal seed heffect =>
      exact ⟨OutsideKept.trans (t := s.createSession .responder sid bidi isLocal (some seed)) ⟨rfl, rfl, rfl⟩
        heffect.outside, fun hs => absurd hidle hs⟩
    | connected hidle _ _ _ ht =>
      subst ht
      exact ⟨⟨rfl, rfl, rfl⟩, fun hs => absurd hidle hs⟩
    | released hi _ hrole ht =>
      subst ht
      exact ⟨⟨rfl, rfl, rfl⟩, fun _ hnot => absurd ⟨hi, hrole⟩ hnot⟩
    | tableReleased _ _ _ ht =>
      subst ht
      exact ⟨⟨rfl, rfl, rfl⟩, fun _ _ => ⟨rfl, rfl, rfl⟩⟩
    | ran _ heffect => exact ⟨heffect.outside, fun _ _ => heffect.session⟩
  obtain ⟨⟨hcfg, hinbox, hopen⟩, hfixed⟩ := hboth
  refine ⟨hcfg, hinbox, hopen, fun hs hnot => ?_⟩
  obtain ⟨hturns, hrole, hcontrol⟩ := hfixed hs hnot
  exact ⟨hturns, hrole, hcontrol⟩

/-- Every command keeps the two finite maps in canonical form. -/
theorem exec_canonical {i : Instr} {s t : State} (hs : Canonical s) (h : exec i s = .next t) : Canonical t := by
  cases exec_done h with
  | refused o ht => subst ht; exact hs
  | accepted _ _ sid bidi isLocal seed heffect =>
    exact heffect.canonical ((Canonical.clearRegisters s).putRecord sid (newRecord bidi isLocal))
  | connected _ sid bidi isLocal ht =>
    subst ht
    exact (Canonical.clearRegisters s).putRecord sid (newRecord bidi isLocal)
  | released _ _ _ ht => subst ht; exact Canonical.clearRegisters s
  | tableReleased _ _ _ ht => subst ht; exact ⟨StreamTable.wf_nil, hs.2⟩
  | ran _ heffect => exact heffect.canonical hs

/-- Settles O57: a step that does not run a command writes neither map. -/
theorem stepKeepsCanonicalForm : Obligations.StepKeepsCanonicalForm := by
  intro s t hs h
  obtain ⟨-, rfl | ⟨d, rest, -, rfl | ⟨i, -, hexec⟩⟩⟩ := step_next h
  · exact hs
  · exact hs
  · exact exec_canonical (s := { s with inbox := rest, openAnswer := d.openAnswer }) hs hexec

/-- Settles O45: only a command that runs in a session in progress, or creates one, sends a close message. -/
theorem atMostOneCloseMessage : Obligations.AtMostOneCloseMessage := by
  intro i s t hcoh h
  cases exec_done h with
  | refused o ht => exact .inl (by rw [ht, State.replied_log])
  | accepted hi hidle sid bidi isLocal seed heffect =>
    have hcreated : (s.createSession .responder sid bidi isLocal (some seed)).log = s.log := rfl
    obtain ⟨events, hlog, hnone | ⟨hone, hclosed, hcode⟩⟩ := heffect.log
    · exact .inl (by rw [hlog, hcreated, closeMessages_append, hnone, Nat.add_zero])
    · exact .inr ⟨by rw [hlog, hcreated, closeMessages_append, hone], .inr ⟨hi, hidle⟩, hclosed, hcode⟩
  | connected _ _ _ _ ht => exact .inl (by rw [ht, State.replied_log]; rfl)
  | released _ _ _ ht => exact .inl (by rw [ht, State.replied_log, State.clearRegisters_log])
  | tableReleased _ _ _ ht => exact .inl (by rw [ht, State.replied_log, State.markClosed_log])
  | ran hs heffect =>
    obtain ⟨c, hlive⟩ := Coherent.liveState hcoh hs
    obtain ⟨events, hlog, hnone | ⟨hone, hclosed, hcode⟩⟩ := heffect.log
    · exact .inl (by rw [hlog, closeMessages_append, hnone, Nat.add_zero])
    · exact .inr ⟨by rw [hlog, closeMessages_append, hone], .inl ⟨hs, hlive.closeCode⟩, hclosed, hcode⟩

/-- Settles O46: a closed session takes no command but DEREGISTER. -/
theorem closedIsAbsorbing : Obligations.ClosedIsAbsorbing := by
  intro i s t hclosed h
  cases exec_done h with
  | refused o ht => subst ht; exact .inl ⟨hclosed, rfl, rfl⟩
  | accepted _ hidle => cases hclosed.symm.trans hidle
  | connected hidle => cases hclosed.symm.trans hidle
  | released hi _ hrole ht => subst ht; exact .inr ⟨hi, hrole, rfl, rfl⟩
  | tableReleased _ _ _ ht => subst ht; exact .inl ⟨rfl, rfl, rfl⟩
  | ran hs =>
    have hin := hs.2
    rw [hclosed] at hin
    cases hin

/-- Settles O60: a command that runs in the session keeps the baton of a queued frame, and one that releases the session
leaves no frame queued. -/
theorem queuedBatonIsStable : Obligations.QueuedBatonIsStable := by
  intro i s t hin hsend h hf hkept
  cases exec_done h with
  | refused o ht => subst ht; rfl
  | accepted _ hidle => rw [hidle] at hin; cases hin
  | connected hidle => rw [hidle] at hin; cases hin
  | released _ _ _ ht => subst ht; exact absurd hkept.symm hsend
  | tableReleased _ _ _ ht => subst ht; rfl
  | ran _ heffect => exact heffect.baton hsend hf

end Sys2Proof.Machine
end

section
/-! PROOFS. Isolation of the datagram side-channel (R245). The stream-based part of a state is the state with the
datagram registers, the last reply and the pending deliveries taken away; a stream command reads nothing else, and a
datagram command writes nothing of it. -/

namespace Sys2Proof.Machine

/-! The stream-based part of a state, and of what a command answers. -/

/-- The state with what the datagram commands write, and the pending deliveries, taken away. -/
def State.streamPart (s : State) : State := { s with dgram := .reset, reply := none, inbox := [] }

/-- The result of a command with the stream-based part of its next state. -/
def streamResult : Result → Result
  | .next s => .next s.streamPart
  | .fault f => .fault f
  | .refused r => .refused r

/-- The stream-based part of what `op` answers depends on that part of the state alone. -/
def StreamOnly (op : State → Result) : Prop := ∀ s, streamResult (op s) = streamResult (op s.streamPart)

section
variable (s : State)

@[simp] theorem State.streamPart_session : s.streamPart.session = s.session := rfl
@[simp] theorem State.streamPart_dec : s.streamPart.dec = s.dec := rfl
@[simp] theorem State.streamPart_fault : s.streamPart.fault = s.fault := rfl
@[simp] theorem State.streamPart_cfg : s.streamPart.cfg = s.cfg := rfl
@[simp] theorem State.streamPart_openAnswer : s.streamPart.openAnswer = s.openAnswer := rfl
@[simp] theorem State.streamPart_record (sid : StreamId) : s.streamPart.record sid = s.record sid := rfl

end

theorem StreamOnly.agree {op : State → Result} (hop : StreamOnly op) {s t : State} (h : s.streamPart = t.streamPart) :
    streamResult (op s) = streamResult (op t) := by
  rw [hop s, hop t, h]

theorem StreamAgree.of_streamPart {s t : State} (h : s.streamPart = t.streamPart) : StreamAgree s t := by
  simp only [State.streamPart, State.mk.injEq] at h
  obtain ⟨hsession, hdec, henc, htable, -, hfault, hlog, -, -, -, hcfg⟩ := h
  exact ⟨hsession, hdec, henc, htable, hfault, hlog, hcfg⟩

/-- Where the stream-based states agree, one answer to the open makes the stream-based parts equal. -/
theorem StreamAgree.streamPart_eq {s t : State} (h : StreamAgree s t) (a : Option StreamId) :
    State.streamPart { s with openAnswer := a } = State.streamPart { t with openAnswer := a } := by
  obtain ⟨hsession, hdec, henc, htable, hfault, hlog, hcfg⟩ := h
  simp only [State.streamPart, hsession, hdec, henc, htable, hfault, hlog, hcfg]

/-! What every command is made of. -/

theorem streamResult_needed {α : Type} (reg : RegName) (v : Option α) {k k' : α → Result}
    (h : ∀ x, streamResult (k x) = streamResult (k' x)) :
    streamResult (needed reg v k) = streamResult (needed reg v k') := by
  cases v with
  | none => rfl
  | some x => exact h x

theorem streamResult_withRecord (s : State) (sid : StreamId) {k k' : StreamRecord → Result}
    (h : ∀ rec, streamResult (k rec) = streamResult (k' rec)) :
    streamResult (withRecord s sid k) = streamResult (withRecord s.streamPart sid k') := by
  rw [withRecord, withRecord, State.streamPart_record]
  cases s.record sid with
  | none => rfl
  | some rec => exact h rec

theorem streamResult_ite {p : Prop} [Decidable p] {a a' b b' : Result} (ha : streamResult a = streamResult a')
    (hb : streamResult b = streamResult b') :
    streamResult (if p then a else b) = streamResult (if p then a' else b') := by
  split
  · exact ha
  · exact hb

theorem answer_streamOnly (o : OutcomeCode) : StreamOnly (answer o) := fun _ => rfl

theorem checked_streamOnly (i : Instr) (accepts : SessionState → Bool) {body : State → Result}
    (hbody : StreamOnly body) : StreamOnly fun s => checked i accepts s body := by
  intro s
  simp only [checked, State.streamPart_fault, State.streamPart_session]
  cases s.fault with
  | some kind => rfl
  | none => exact streamResult_ite rfl (streamResult_ite rfl (hbody s))

/-! The close procedure and the dispatcher. -/

theorem State.closeOn_streamPart (s : State) (c : StreamId) (rec : StreamRecord) (code : CloseCode) :
    s.streamPart.closeOn c rec code = (s.closeOn c rec code).streamPart := by
  rw [State.closeOn, State.closeOn]
  split <;> rfl

theorem closeThen_streamOnly (code : CloseCode) {k : State → Result} (hk : StreamOnly k) :
    StreamOnly fun s => closeThen code s k := by
  refine fun s => streamResult_needed _ _ fun c => streamResult_withRecord s c fun rec => ?_
  rw [State.closeOn_streamPart]
  exact hk (s.closeOn c rec code)

theorem closeSession_streamOnly (code : CloseCode) (o : OutcomeCode) : StreamOnly (closeSession code o) :=
  closeThen_streamOnly code (answer_streamOnly o)

theorem armStream_streamOnly (sid : StreamId) : StreamOnly (armStream sid) := by
  intro s
  simp only [armStream, State.streamPart_session]
  cases addCounter s.session.turnCount 1 with
  | none => rfl
  | some turns => rfl

theorem openAndArm_streamOnly (bidi : Bool) : StreamOnly (openAndArm bidi) := by
  intro s
  simp only [openAndArm, State.streamPart_openAnswer]
  cases s.openAnswer with
  | none => exact (closeSession_streamOnly _ _).agree rfl
  | some sid => exact streamResult_needed _ _ fun control => (armStream_streamOnly sid).agree rfl

theorem armSame_streamOnly (sid : StreamId) (rec : StreamRecord) : StreamOnly (armSame sid rec) := fun s =>
  streamResult_ite rfl (armStream_streamOnly sid s)

theorem dispatchInbound_streamOnly (sid : StreamId) (rec : StreamRecord) : StreamOnly (dispatchInbound sid rec) := by
  intro s
  simp only [dispatchInbound, State.streamPart_cfg]
  cases selectRoute s.cfg.bidiDispatch (some rec) with
  | newUni => exact openAndArm_streamOnly false s
  | newBidi => exact openAndArm_streamOnly true s
  | same => exact armSame_streamOnly sid rec s

theorem dispatchTurn_streamOnly (inbound : Option StreamId) : StreamOnly (dispatchTurn inbound) := by
  intro s
  simp only [dispatchTurn, State.streamPart_session]
  cases s.session.activeSend with
  | some a => rfl
  | none =>
    cases inbound with
    | none => exact openAndArm_streamOnly false s
    | some sid => exact streamResult_withRecord s sid fun rec => dispatchInbound_streamOnly sid rec s

/-! The turn check. All it does to the datagram registers is the arming (R186), which reads none of them. -/

theorem State.mirrorBaton_streamPart (s : State) (b : Byte) (role : Role) :
    (s.mirrorBaton b role).streamPart = (s.streamPart.mirrorBaton b role).streamPart := by
  rw [State.mirrorBaton, State.mirrorBaton]
  split <;> rfl

theorem acceptTurn_streamOnly (b : Byte) (r : StreamId) : StreamOnly (acceptTurn b r) := by
  intro s
  simp only [acceptTurn, State.streamPart_session]
  cases addCounter s.session.turnCount 1 with
  | none => rfl
  | some turns =>
    exact streamResult_needed _ _ fun n => streamResult_needed _ _ fun role =>
      (dispatchTurn_streamOnly (some r)).agree (State.mirrorBaton_streamPart _ b role)

theorem zeroBaton_streamOnly (r : StreamId) (rec : StreamRecord) : StreamOnly (zeroBaton r rec) := by
  intro s
  rw [zeroBaton, zeroBaton]
  refine (closeSession_streamOnly _ _).agree ?_
  split <;> rfl

theorem sequenceCheck_streamOnly (b : Byte) (r : StreamId) : StreamOnly (sequenceCheck b r) := by
  intro s
  simp only [sequenceCheck, State.streamPart_session]
  cases s.session.firstBaton with
  | none => exact acceptTurn_streamOnly b r s
  | some _ =>
    exact streamResult_needed _ _ fun prev =>
      streamResult_ite (acceptTurn_streamOnly b r s) ((closeSession_streamOnly _ _).agree rfl)

theorem turnCheck_streamOnly : StreamOnly turnCheck := fun s =>
  streamResult_needed _ _ fun b => streamResult_needed _ _ fun r =>
    streamResult_ite (streamResult_withRecord s r fun rec => zeroBaton_streamOnly r rec s)
      (sequenceCheck_streamOnly b r s)

/-! The bytes of a delivery. -/

theorem prefixStored_streamPart (s : State) : prefixStored s.streamPart = (prefixStored s).map State.streamPart := by
  have hdec : s.streamPart.dec = s.dec := rfl
  simp only [prefixStored, hdec]
  cases s.dec.scratch.read 0 with
  | none => rfl
  | some b0 =>
    by_cases hlong : vlen b0 > 2
    · simp only [if_pos hlong]
      rfl
    · by_cases hlast : s.dec.scratchLen = vlen b0
      · simp only [if_neg hlong, if_pos hlast]
        cases scratchPrefix s.dec.scratch (vlen b0) <;> rfl
      · simp only [if_neg hlong, if_neg hlast]
        rfl

theorem lenByte_streamPart (b : Byte) (s : State) : lenByte b s.streamPart = (lenByte b s).map State.streamPart := by
  simp only [lenByte, State.streamPart_dec]
  cases s.dec.scratch.write s.dec.scratchLen b with
  | none => rfl
  | some m => exact prefixStored_streamPart (s.onDec fun d => { d with scratch := m, scratchLen := d.scratchLen + 1 })

theorem batonByte_streamPart (sid : StreamId) (b : Byte) (s : State) :
    batonByte sid b s.streamPart = (batonByte sid b s).map State.streamPart := by
  simp only [batonByte, State.streamPart_record]
  cases s.record sid <;> rfl

theorem decodeByte_streamPart (sid : StreamId) (b : Byte) (s : State) :
    decodeByte sid b s.streamPart = (decodeByte sid b s).map State.streamPart := by
  simp only [decodeByte, State.streamPart_dec]
  cases s.dec.phase with
  | idle => rfl
  | len => exact lenByte_streamPart b s
  | pad => rfl
  | baton => exact batonByte_streamPart sid b s
  | done => rfl

/-- Processing bytes neither reads nor writes outside the stream-based part. -/
theorem decodeBytes_streamPart (sid : StreamId) (bytes : List Byte) (completed : Bool) (s : State) :
    decodeBytes sid bytes completed s.streamPart = (decodeBytes sid bytes completed s).map State.streamPart := by
  induction bytes generalizing completed s with
  | nil => rfl
  | cons b rest ih =>
    rw [decodeBytes_cons, decodeBytes_cons, decodeByte_streamPart]
    cases decodeByte sid b s with
    | ok t now => exact ih _ t
    | violation t => rfl
    | stuck f => rfl

/-! A delivery. -/

theorem finishDelivery_streamOnly (completed : Bool) : StreamOnly (finishDelivery completed) := fun s =>
  streamResult_ite (turnCheck_streamOnly s) rfl

theorem framingViolation_streamOnly : StreamOnly framingViolation := closeSession_streamOnly _ _

theorem recordFin_streamOnly (sid : StreamId) {k : State → Result} (hk : StreamOnly k) :
    StreamOnly fun s => recordFin sid s k := fun s => streamResult_withRecord s sid fun _ => hk.agree rfl

theorem endOfRange_streamOnly (sid : StreamId) (fin completed : Bool) : StreamOnly (endOfRange sid fin completed) :=
  fun s => streamResult_ite (finishDelivery_streamOnly completed s)
    (streamResult_ite (framingViolation_streamOnly s)
      (recordFin_streamOnly sid (finishDelivery_streamOnly completed) s))

theorem emptyRange_streamOnly (sid : StreamId) (fin : Bool) : StreamOnly (emptyRange sid fin) := fun s =>
  streamResult_ite rfl (streamResult_ite (framingViolation_streamOnly s)
    (recordFin_streamOnly sid (answer_streamOnly _) s))

theorem State.associate_streamPart (s : State) (sid : StreamId) :
    s.streamPart.associate sid = (s.associate sid).streamPart := by
  rw [State.associate, State.associate, State.streamPart_dec]
  split <;> rfl

theorem byteRange_streamOnly (sid : StreamId) (fin : Bool) (payload : List Byte) :
    StreamOnly (byteRange sid fin payload) := by
  refine fun s => streamResult_withRecord s sid fun rec => streamResult_ite (framingViolation_streamOnly s)
    (streamResult_ite (framingViolation_streamOnly s) ?_)
  rw [State.associate_streamPart, decodeBytes_streamPart]
  cases decodeBytes sid payload false (s.associate sid) with
  | ok t completed => exact endOfRange_streamOnly sid fin completed t
  | violation t => exact framingViolation_streamOnly t
  | stuck f => rfl

theorem receiveRange_streamOnly (sid : StreamId) (fin : Bool) (payload : List Byte) :
    StreamOnly (receiveRange sid fin payload) := by
  intro s
  simp only [receiveRange, State.streamPart_session]
  cases addCounter s.session.streamBytesReceived payload.length with
  | none => rfl
  | some total =>
    exact streamResult_ite ((emptyRange_streamOnly sid fin).agree rfl)
      ((byteRange_streamOnly sid fin payload).agree rfl)

theorem State.knowStream_streamPart (s : State) (sid : StreamId) (bidi : Bool) :
    s.streamPart.knowStream sid bidi = (s.knowStream sid bidi).streamPart := by
  rw [State.knowStream, State.knowStream, State.streamPart_record]
  cases s.record sid <;> rfl

/-! Every stream command. -/

theorem writeFrame_streamOnly (sid : StreamId) (p : PadLen) (b : Byte) (m : Nat) : StreamOnly (writeFrame sid p b m) :=
  fun _ => streamResult_ite (streamResult_withRecord _ sid fun _ => rfl) rfl

theorem tearDown_streamOnly : StreamOnly fun s =>
    needed .role s.session.role fun role => answer .errReset (s.tearDown role) := fun s =>
  streamResult_needed _ _ fun role => by cases role <;> rfl

theorem exec_streamOnly {i : Instr} (hi : isDatagramCommand i = false) : StreamOnly (exec i) := by
  cases i with
  | accept sid bidi isLocal seed =>
    exact checked_streamOnly _ _ fun s => (dispatchTurn_streamOnly none).agree rfl
  | connect sid bidi isLocal => exact checked_streamOnly _ _ fun _ => rfl
  | deregister => exact checked_streamOnly _ _ fun s => streamResult_needed _ _ fun role => by cases role <;> rfl
  | deliverBytes sid fin bidi isLocal payload =>
    refine checked_streamOnly _ _ fun s => streamResult_ite rfl ?_
    rw [State.knowStream_streamPart]
    exact receiveRange_streamOnly sid fin payload (s.knowStream sid bidi)
  | requestSend sid m =>
    exact checked_streamOnly _ _ fun s =>
      streamResult_ite rfl (streamResult_needed _ _ fun _ => writeFrame_streamOnly _ _ _ _ s)
  | deliverDatagram payload => cases hi
  | requestDatagram m pad => cases hi
  | notifyReset sid => exact checked_streamOnly _ _ (closeThen_streamOnly _ tearDown_streamOnly)
  | idleTimeout => exact checked_streamOnly _ _ (closeSession_streamOnly _ _)

/-! Runs. -/

/-- A datagram command that raises no model fault writes the datagram registers and the reply. -/
theorem exec_datagram_streamPart {i : Instr} {s t : State} (hi : isDatagramCommand i = true) (h : exec i s = .next t)
    (hf : t.fault = none) : s.streamPart = t.streamPart := by
  cases i with
  | deliverDatagram payload =>
    rw [exec, execDeliverDatagram] at h
    obtain ⟨-, ⟨o, rfl⟩ | ⟨-, -, hbody⟩⟩ := checked_next h
    · rfl
    · split at hbody
      · rw [answer_next hbody]
        rfl
      · rcases countReceived_next hbody with ⟨u, rfl, -⟩ | ⟨received, bytes, -, -, hanswer⟩
        · cases hf
        · rw [answer_next hanswer]
          rfl
  | requestDatagram m pad =>
    rw [exec, execRequestDatagram] at h
    obtain ⟨-, ⟨o, rfl⟩ | ⟨-, -, hbody⟩⟩ := checked_next h
    · rfl
    · split at hbody
      · rw [answer_next hbody]
        rfl
      · obtain ⟨v, -, hcount⟩ := needed_next hbody
        rcases countSent_next hcount with ⟨u, rfl, -⟩ | ⟨sent, bytes, -, -, hsent⟩
        · cases hf
        · obtain rfl := Host.Outcome.next.inj hsent
          rfl
  | _ => cases hi

theorem fault_of_runCommands {cs : List Command} {s t : State} (h : runCommands cs s = .next t)
    (hf : t.fault = none) : s.fault = none := by
  cases cs with
  | nil => obtain rfl := Host.Outcome.next.inj h; exact hf
  | cons c rest =>
    rw [runCommands] at h
    cases hexec : exec c.1 { s with openAnswer := c.2 } with
    | next u => exact exec_next_not_halted (s := { s with openAnswer := c.2 }) hexec
    | fault f => rw [hexec] at h; cases h
    | refused r => rw [hexec] at h; cases h

theorem streamResult_eq_next {r : Result} {s : State} (h : streamResult (.next s) = streamResult r) :
    ∃ t, r = .next t ∧ s.streamPart = t.streamPart := by
  cases r with
  | next t => exact ⟨t, rfl, Host.Outcome.next.inj h⟩
  | fault f => cases h
  | refused r => cases h

/-- A run from `s` is matched, command by command, by its stream commands from a state that agrees with `s`. -/
theorem runCommands_streamAgree {cs : List Command} {s s' t : State} (hagree : StreamAgree s s')
    (h : runCommands cs s = .next t) (hf : t.fault = none) :
    ∃ t', runCommands (cs.filter fun c => !isDatagramCommand c.1) s' = .next t' ∧ StreamAgree t t' := by
  induction cs generalizing s s' with
  | nil =>
    obtain rfl := Host.Outcome.next.inj h
    exact ⟨s', rfl, hagree⟩
  | cons c rest ih =>
    obtain ⟨i, a⟩ := c
    have hparts := hagree.streamPart_eq a
    rw [runCommands] at h
    cases hexec : exec i { s with openAnswer := a } with
    | fault f => rw [hexec] at h; cases h
    | refused r => rw [hexec] at h; cases h
    | next u =>
      rw [hexec] at h
      cases hi : isDatagramCommand i with
      | true =>
        have hu := exec_datagram_streamPart hi hexec (fault_of_runCommands h hf)
        rw [List.filter_cons_of_neg (by simp [hi])]
        have hkept : StreamAgree u { s' with openAnswer := a } := StreamAgree.of_streamPart (hu.symm.trans hparts)
        exact ih hkept h
      | false =>
        have hstep := (exec_streamOnly hi).agree hparts
        rw [hexec] at hstep
        obtain ⟨u', hu', hagree'⟩ := streamResult_eq_next hstep
        rw [List.filter_cons_of_pos (by simp [hi]), runCommands, hu']
        exact ih (StreamAgree.of_streamPart hagree') h

/-- Settles O52: a datagram command writes nothing of the stream-based part, and a stream command reads nothing else. -/
theorem datagramIsolation : Obligations.DatagramIsolation :=
  ⟨fun _ _ _ hi h hf => StreamAgree.of_streamPart (exec_datagram_streamPart hi h hf),
    fun _ _ _ h hf => runCommands_streamAgree ⟨rfl, rfl, rfl, rfl, rfl, rfl, rfl⟩ h hf⟩

end Sys2Proof.Machine
end
